-- ==== Sys2Proof/Word.lean ====
section
/-! DEFINITION. The byte, and the identifiers the spec keeps opaque. -/

namespace Sys2Proof

/-- A byte, a natural number in 0..255 (R2). -/
abbrev Byte := BitVec 8

/-- A port identifier, never interpreted (R12). DESIGN CHOICE (log 13), safe: a token that is only ever stored. -/
structure Port where
  token : Nat
deriving DecidableEq, Repr

/-- A pose's name; the procedure only asks whether two names are equal (R115). DESIGN CHOICE (log 13), safe. -/
structure PoseName where
  token : Nat
deriving DecidableEq, Repr

end Sys2Proof
end

