-- ==== Sys2Proof/Config.lean ====
section
/-! DEFINITION. The block's fixed values, its OPEN parameters (00_scope.md section 4, R1) and the free values: the draws of the
bus environment, the Timer and the platform. -/

namespace Sys2Proof.Config

/-- The frame header byte, sent twice (R48). -/
abbrev headerByte : Byte := 0xFF
/-- The broadcast device id (R31). -/
abbrev broadcastId : Byte := 254
/-- The controller board's id (R31). -/
abbrev controllerId : Byte := 253
/-- The raw halt byte 'H' (R47, decision D4). -/
abbrev haltByte : Byte := 0x48
/-- Capacity of PBUF in bytes (R17). -/
abbrev pbufCap : Nat := 253
/-- Most parameter bytes one instruction packet carries (R79). -/
abbrev maxParams : Nat := 253
/-- Default baud rate (R13). -/
abbrev defaultBaud : Nat := 1000000
/-- Default read timeout, 0.5 s, in microseconds (R13). DESIGN CHOICE for the unit (log 13), safe: no rule reads it. -/
abbrev defaultTimeout : Nat := 500000

/-- Parity of the character format; part of UART_FRAME, read by no rule (decision D2). DESIGN CHOICE (log 19), safe: the spec leaves the
formats without a list, and the model admits these five parities. -/
inductive Parity where
  | none | even | odd | mark | space
deriving DecidableEq, Repr

/-- UART_FRAME: the character format and bit order on the line (00_scope.md section 4, R38). No rule reads it. DESIGN CHOICE (log 19), safe:
the spec leaves the formats without a list, and the model admits those of a number of data bits, a parity, a number of half stop bits and a
bit order. -/
structure UartFrame where
  dataBits     : Nat
  parity       : Parity
  halfStopBits : Nat
  lsbFirst     : Bool
deriving DecidableEq, Repr

/-- POSE_VALUE_BYTES, 1 or 2 (decision D23). -/
inductive PoseWidth where
  | one | two
deriving DecidableEq, Repr

/-- The number of bytes of a pose value. -/
def PoseWidth.toNat : PoseWidth → Nat
  | .one => 1
  | .two => 2

/-- The OPEN parameters of 00_scope.md section 4. R1: the model does not fix them; every statement over all states is over all of them. -/
structure Params where
  opReadData    : Byte
  opWriteData   : Byte
  opSyncWrite   : Byte
  opSetPoseSize : Byte
  opLoadPose    : Byte
  opLoadSeq     : Byte
  opPlay        : Byte
  opLoop        : Byte
  poseBytes     : PoseWidth
  uartFrame     : UartFrame
deriving DecidableEq, Repr

/-- The eight named opcodes, in the order of the table of R54. -/
def Params.opcodes (c : Params) : List Byte :=
  [c.opReadData, c.opWriteData, c.opSyncWrite, c.opSetPoseSize, c.opLoadPose, c.opLoadSeq, c.opPlay, c.opLoop]

/-- The eight opcodes are different bytes. -/
abbrev Params.distinct (c : Params) : Prop := c.opcodes.Nodup

/-- The default configuration of 00_scope.md section 4, with POSE_VALUE_BYTES = 1 as 95_test_vectors.md has it.
PRESUMED (log 3): the spec marks the opcode values and 8N1 as general knowledge. Unsafe for a claim about State.reset alone. -/
def Params.default : Params where
  opReadData    := 0x02
  opWriteData   := 0x03
  opSyncWrite   := 0x83
  opSetPoseSize := 0x07
  opLoadPose    := 0x08
  opLoadSeq     := 0x09
  opPlay        := 0x0A
  opLoop        := 0x0B
  poseBytes     := .one
  uartFrame     := { dataBits := 8, parity := .none, halfStopBits := 2, lsbFirst := true }

/-- What the agents outside the block do before and during one step: the bytes the bus appends to RXQ (R24), whether the Timer may
fire (R25), whether a port can be opened (R71), whether the host uses an idle moment of a DOWNLOAD for a halt (R113), and whether a reset
is applied (R140), which the next step then takes (log 12). -/
structure Draw where
  bus       : List Byte
  timer     : Bool
  connect   : Bool
  interject : Bool
  reset     : Bool
deriving DecidableEq, Repr, Inhabited

/-- A draw in which nothing happens outside the block. -/
def Draw.quiet : Draw := { bus := [], timer := false, connect := false, interject := false, reset := false }

/-- FREE VALUE (log 2), safe: the draw of the step numbered `n` where the state names none. It has no body, so no proof can know it;
a statement about it holds whatever it is. -/
opaque draw : Nat → Draw

end Sys2Proof.Config
end

