-- ==== Sys2Proof/Syntax.lean ====
section
/-! DEFINITION. The instructions: one constructor for each row of spec/opcode_table.json, in the table's order. -/

namespace Sys2Proof

/-- One transition of a sequence: a pose name and a duration in milliseconds (R115, R116). The duration is a natural so that the
check of R117 has something to refuse. -/
structure Transition where
  name     : PoseName
  duration : Nat
deriving DecidableEq, Repr

/-- A pose: its name and its register values, one per actuator (R109). -/
structure Pose where
  name   : PoseName
  values : List Nat
deriving DecidableEq, Repr

/-- The requested playback mode of a DOWNLOAD; `other` is any request that is neither (R117). -/
inductive PlayMode where
  | play | loop | other
deriving DecidableEq, Repr

/-- The instructions: the eight instruction packets (R54), the halt byte (R47), the eight host commands (R66), the six pseudo-commands (R67)
and the host procedure (R118). -/
inductive Instr where
  /-- OP_READ_DATA: packet `[start, count]` to `id` (R55). -/
  | opReadData (id start count : Byte)
  /-- OP_WRITE_DATA: packet `[start] ++ values` to `id` (R56). -/
  | opWriteData (id start : Byte) (values : List Byte)
  /-- OP_SYNC_WRITE: packet `[start, len] ++ rows` to the broadcast id, the rows joined (R57). -/
  | opSyncWrite (start len : Byte) (rows : List Byte)
  /-- OP_SET_POSE_SIZE: packet `[n]` to the controller board (R58). -/
  | opSetPoseSize (n : Byte)
  /-- OP_LOAD_POSE: packet `[k] ++ pose value bytes` to the controller board (R58). -/
  | opLoadPose (k : Byte) (valueBytes : List Byte)
  /-- OP_LOAD_SEQ: packet of the transition stream to the controller board (R58, R59). -/
  | opLoadSeq (stream : List Byte)
  /-- OP_PLAY: packet without parameters to the controller board (R58). -/
  | opPlay
  /-- OP_LOOP: packet without parameters to the controller board (R58). -/
  | opLoop
  /-- HALT_BYTE: the raw byte 0x48 (R47). -/
  | haltByte
  /-- OPEN port, baud, timeout; an omitted field takes its default (R71, R13). -/
  | openPort (port : Port) (baud timeout : Option Nat)
  /-- WRITE_RAW bytes (R72). -/
  | writeRaw (bytes : List Byte)
  /-- READ_BYTE (R73). -/
  | readByte
  /-- FLUSH_INPUT (R74). -/
  | flushInput
  /-- EXECUTE id, instr, params (R99). -/
  | execute (id instr : Byte) (params : List Byte)
  /-- GET_REGISTER id, start, count (R101). -/
  | getRegister (id start count : Byte)
  /-- SET_REGISTER id, start, values (R102). -/
  | setRegister (id start : Byte) (values : List Byte)
  /-- SYNC_WRITE start, rows (R103). -/
  | syncWrite (start : Byte) (rows : List (List Byte))
  /-- SET_POSE_SIZE n (R108). -/
  | setPoseSize (n : Byte)
  /-- UPLOAD_POSE k, vals (R109). -/
  | uploadPose (k : Byte) (vals : List Nat)
  /-- UPLOAD_SEQUENCE s (R110). -/
  | uploadSequence (s : List Byte)
  /-- PLAY (R111). -/
  | play
  /-- LOOP (R112). -/
  | loop
  /-- HALT (R113). -/
  | halt
  /-- DOWNLOAD transitions, poses, count, mode (R118). -/
  | download (transitions : List Transition) (poses : List Pose) (count : Nat) (mode : PlayMode)
deriving DecidableEq, Repr

end Sys2Proof
end

