-- ==== Sys2Proof/Decode.lean ====
section
/-! DEFINITION. What the host hands over, read as an instruction; the packet encoder (R78); and, after the decoder, the encoder of
instructions. The spec gives a command record a tag and typed arguments and no byte layout (R66, 91_not_in_source.md N11). -/

namespace Sys2Proof

open Config

/-- The exact sum of a byte list, a natural number (R4, R81). -/
def byteSum : List Byte → Nat
  | [] => 0
  | b :: bs => b.toNat + byteSum bs

/-- The low byte of a natural number (R3: `lo8`, and `mod 256` where a rule writes it). -/
def lowByte (n : Nat) : Byte := BitVec.ofNat 8 n

/-- The length field: parameter count + 2 (R49). -/
def lengthByte (params : List Byte) : Byte := lowByte (params.length + 2)

/-- The checksum of an instruction packet (R50). -/
def checksumByte (id instr : Byte) (params : List Byte) : Byte :=
  lowByte (255 - (id.toNat + (lengthByte params).toNat + instr.toNat + byteSum params) % 256)

/-- The encoder of R78: the bytes of an instruction packet (R45), first-sent first. -/
def packet (id instr : Byte) (params : List Byte) : List Byte :=
  [headerByte, headerByte, id, lengthByte params, instr] ++ params ++ [checksumByte id instr params]

/-- The validity of a frame's checksum (R51), on exact sums. -/
def checksumOk (id len instr : Byte) (params : List Byte) (ck : Byte) : Bool :=
  (id.toNat + len.toNat + instr.toNat + byteSum params + ck.toNat) % 256 == 255

/-- The typed arguments of a command record (R66) or of a pseudo-command (R67): one lane for each argument, of which a command reads
its own. DESIGN CHOICE (log 4), safe: the spec gives the arguments' types and no layout, so a record of the wrong shape does not exist. -/
structure Args where
  port        : Port := ⟨0⟩
  baud        : Option Nat := none
  timeout     : Option Nat := none
  id          : Byte := 0
  instr       : Byte := 0
  start       : Byte := 0
  count       : Byte := 0
  bytes       : List Byte := []
  rows        : List (List Byte) := []
  vals        : List Nat := []
  transitions : List Transition := []
  poses       : List Pose := []
  actuators   : Nat := 0
  mode        : PlayMode := .play
deriving DecidableEq, Repr

/-- The names that have no tag of their own: the pseudo-commands (R67) and the host procedure (R118). -/
inductive Pseudo where
  | setPoseSize | uploadPose | uploadSequence | play | loop | halt | download
deriving DecidableEq, Repr

/-- What the host hands over: a command record (R66), the bytes of an instruction packet (R54; log 5), a raw byte (R47, R72; log 6), or a
command written by a name without a tag (R67, R68). -/
inductive Request where
  | record (tag : Byte) (args : Args)
  | packet (bytes : List Byte)
  | raw (byte : Byte)
  | pseudo (name : Pseudo) (args : Args)
deriving DecidableEq, Repr

/-- Why bytes handed over as an instruction packet are none. -/
inductive Reject where
  /-- fewer than the six bytes of the shortest packet -/
  | tooShort
  /-- the first two bytes are not both 0xFF (R48) -/
  | badHeader
  /-- the length field is not the number of bytes after it (R49) -/
  | badLength
  /-- the checksum test fails (R51) -/
  | badChecksum
deriving DecidableEq, Repr

/-- What a request decodes to: an instruction, or no command, by name: a record whose tag no command has (R66), or bytes that are no
packet (log 17). Both finish with INVALID_ARGUMENT. -/
inductive Decoded where
  | instr (i : Instr)
  | unknownTag (tag : Byte)
  | malformed (why : Reject)
deriving DecidableEq, Repr

/-- A command record by its tag (R66). -/
def decodeRecord (tag : Byte) (a : Args) : Decoded :=
  if tag = 0x01 then .instr (.openPort a.port a.baud a.timeout)
  else if tag = 0x02 then .instr (.writeRaw a.bytes)
  else if tag = 0x03 then .instr .readByte
  else if tag = 0x04 then .instr .flushInput
  else if tag = 0x10 then .instr (.execute a.id a.instr a.bytes)
  else if tag = 0x11 then .instr (.getRegister a.id a.start a.count)
  else if tag = 0x12 then .instr (.setRegister a.id a.start a.bytes)
  else if tag = 0x13 then .instr (.syncWrite a.start a.rows)
  else .unknownTag tag

/-- A pseudo-command or the procedure, by its name (R67, R118). -/
def decodePseudo (p : Pseudo) (a : Args) : Instr :=
  match p with
  | .setPoseSize => .setPoseSize a.count
  | .uploadPose => .uploadPose a.count a.vals
  | .uploadSequence => .uploadSequence a.bytes
  | .play => .play
  | .loop => .loop
  | .halt => .halt
  | .download => .download a.transitions a.poses a.actuators a.mode

/-- Joined rows of an OP_SYNC_WRITE packet: at least one, all of `len + 1` bytes (R57). -/
def joinedRowsOk (len : Byte) (rows : List Byte) : Bool :=
  !rows.isEmpty && rows.length % (len.toNat + 1) == 0

/-- The instruction of a packet, by its opcode, target and parameters (R54 to R58). A packet that is none of the eight named ones is
the EXECUTE that sends it: the whole instruction byte is open to EXECUTE (R54, R61; log 5). A target id of 0 or 255 is no matter here:
the instruction's own argument check refuses it with INVALID_ARGUMENT (R61).
DESIGN CHOICE (log 21), unsafe for claims about packet bytes where two opcode parameters hold the same byte, which the spec does not rule
out: the first row of R54's table whose opcode is the byte decides, with the EXECUTE where the operands do not fit that row; the five rows
after SYNC_WRITE count only for the controller board's id. So where OP_SYNC_WRITE = OP_WRITE_DATA the packet is an OP_WRITE_DATA, which
reads an answer. -/
def instrOfPacket (c : Params) (id instr : Byte) (params : List Byte) : Instr :=
  let other : Instr := .execute id instr params
  if instr = c.opReadData then
    match params with
    | [start, count] => .opReadData id start count
    | _ => other
  else if instr = c.opWriteData then
    match params with
    | start :: values => .opWriteData id start values
    | _ => other
  else if instr = c.opSyncWrite then
    match params with
    | start :: len :: rows => if id = broadcastId ∧ joinedRowsOk len rows then .opSyncWrite start len rows else other
    | _ => other
  else if id ≠ controllerId then other
  else if instr = c.opSetPoseSize then
    match params with
    | [n] => .opSetPoseSize n
    | _ => other
  else if instr = c.opLoadPose then
    match params with
    | k :: bs => .opLoadPose k bs
    | _ => other
  else if instr = c.opLoadSeq then .opLoadSeq params
  else if instr = c.opPlay then
    match params with
    | [] => .opPlay
    | _ => other
  else if instr = c.opLoop then
    match params with
    | [] => .opLoop
    | _ => other
  else other

/-- The bytes of an instruction packet (R45), its framing checked field by field (R48, R49, R51). -/
def decodePacket (c : Params) (bytes : List Byte) : Decoded :=
  match bytes with
  | h1 :: h2 :: id :: len :: instr :: rest =>
    if h1 ≠ headerByte ∨ h2 ≠ headerByte then .malformed .badHeader
    else
      match rest.getLast? with
      | none => .malformed .tooShort
      | some ck =>
        if rest.length + 1 ≠ len.toNat then .malformed .badLength
        else if checksumOk id len instr rest.dropLast ck then .instr (instrOfPacket c id instr rest.dropLast)
        else .malformed .badChecksum
  | _ => .malformed .tooShort

/-- The decoder: any request to an instruction, an unknown tag or a rejection by name. A raw byte is the halt byte (R47), or a raw send of
that byte (R72; log 6). -/
def decode (c : Params) : Request → Decoded
  | .record tag a => decodeRecord tag a
  | .packet bytes => decodePacket c bytes
  | .raw b => .instr (if b = haltByte then .haltByte else .writeRaw [b])
  | .pseudo p a => .instr (decodePseudo p a)

/-- The encoder: the request an instruction is handed over as. Instruction packets by R45 and R55 to R58, commands by R66, the rest by
R67 and R118. -/
def encode (c : Params) : Instr → Request
  | .opReadData id start count => .packet (packet id c.opReadData [start, count])
  | .opWriteData id start values => .packet (packet id c.opWriteData (start :: values))
  | .opSyncWrite start len rows => .packet (packet broadcastId c.opSyncWrite (start :: len :: rows))
  | .opSetPoseSize n => .packet (packet controllerId c.opSetPoseSize [n])
  | .opLoadPose k bs => .packet (packet controllerId c.opLoadPose (k :: bs))
  | .opLoadSeq s => .packet (packet controllerId c.opLoadSeq s)
  | .opPlay => .packet (packet controllerId c.opPlay [])
  | .opLoop => .packet (packet controllerId c.opLoop [])
  | .haltByte => .raw haltByte
  | .openPort port baud timeout => .record 0x01 { port := port, baud := baud, timeout := timeout }
  | .writeRaw bytes => .record 0x02 { bytes := bytes }
  | .readByte => .record 0x03 {}
  | .flushInput => .record 0x04 {}
  | .execute id instr params => .record 0x10 { id := id, instr := instr, bytes := params }
  | .getRegister id start count => .record 0x11 { id := id, start := start, count := count }
  | .setRegister id start values => .record 0x12 { id := id, start := start, bytes := values }
  | .syncWrite start rows => .record 0x13 { start := start, rows := rows }
  | .setPoseSize n => .pseudo .setPoseSize { count := n }
  | .uploadPose k vals => .pseudo .uploadPose { count := k, vals := vals }
  | .uploadSequence s => .pseudo .uploadSequence { bytes := s }
  | .play => .pseudo .play {}
  | .loop => .pseudo .loop {}
  | .halt => .pseudo .halt {}
  | .download ts ps n m => .pseudo .download { transitions := ts, poses := ps, actuators := n, mode := m }

/-- The one byte the opcode table gives a row, laid out as the hardware has it: a tag opens a command record, 0x48 is the raw halt byte,
and any other byte that the default configuration uses as an opcode stands in byte 4 of an instruction packet to the row's target with
operand bytes of zero. 0x02 and 0x03 are both a tag and an opcode; here they are the tag (log 7). -/
def tableRequest (nbits w : Nat) : Request :=
  let b := lowByte w
  let c := Params.default
  if nbits ≠ 8 then .packet []
  else if b = haltByte then .raw b
  else if b = c.opSyncWrite then .packet (packet broadcastId b [0, 0, 0])
  else if b = c.opSetPoseSize ∨ b = c.opLoadPose then .packet (packet controllerId b [0])
  else if b = c.opLoadSeq ∨ b = c.opPlay ∨ b = c.opLoop then .packet (packet controllerId b [])
  else .record b {}

/-- The instruction the decoder reads from the byte the opcode table gives a row. -/
def decodeTableWord (nbits w : Nat) : Option Instr :=
  match decode Params.default (tableRequest nbits w) with
  | .instr i => some i
  | _ => none

end Sys2Proof
end

