-- ==== Sys2Proof/Machine/State.lean ====
section
/-! DEFINITION. The state of the block (10_state.md section 3), what the agents around it hold, and the state after reset (R139).
The block has no memory (R30). ⊥ is `none`: the spec's own value "holds no value" (R5). -/

namespace Sys2Proof.Machine

open Config

/-- The decoder's states (R15). Code 7 is reserved and never held, so it has no constructor. -/
inductive DState where
  | seekHeader1 | seekHeader2 | readId | readLength | readError | readParams | readChecksum
deriving DecidableEq, Repr

/-- The status codes' names (R124). Codes 5 to 7 are reserved and never produced, so they have no constructor. -/
inductive Status where
  | ok | connectionError | readTimeout | checksumError | invalidArgument
deriving DecidableEq, Repr

/-- RESULT.DATA (R18): ⊥, a byte, a byte list, or FAIL, which is none of these (R101). -/
inductive Data where
  | bottom
  | byte (b : Byte)
  | bytes (bs : List Byte)
  | fail
deriving DecidableEq, Repr

/-- RESULT (R18). -/
structure Result where
  status : Option Status
  err    : Option Byte
  data   : Data
deriving DecidableEq, Repr

/-- CONN (R12). The timeout is in microseconds (log 13). -/
structure Conn where
  opened  : Bool
  port    : Option Port
  baud    : Nat
  timeout : Nat
deriving DecidableEq, Repr

/-- The decoder's registers DSTATE, RID, RLEN, RERR and PBUF (R15, R16, R17). -/
structure Decoder where
  dstate : DState
  rid    : Option Byte
  rlen   : Option Byte
  rerr   : Option Byte
  pbuf   : List Byte
deriving DecidableEq, Repr

/-- The step of PHASE = BUSY(cmd, step): the atomic steps of R29 after the accept. `connect` is OPEN's draw of CONNECT with its
RXQ <- [] (R71; log 9), `read` is READ_BYTE's RxRead (R73), and `finish` holds what the command hands to its finish: the outcome of its
decode (R91), READ_BYTE's byte, or nothing. -/
inductive CmdStep where
  | validate
  | connect
  | flush
  | send
  | read
  | decode
  | finish (err : Option Byte) (params : List Byte)
deriving DecidableEq, Repr

/-- PHASE (R14). -/
inductive Phase where
  | idle
  | busy (cmd : Instr) (step : CmdStep)
deriving DecidableEq, Repr

/-- A DOWNLOAD the host is running (R118): its arguments, the commands it has still to run, and whether the outcome of the command it
issued last is still to be looked at. Host state, not the block's (log 11). -/
structure Proc where
  transitions : List Transition
  poses       : List Pose
  count       : Nat
  mode        : PlayMode
  todo        : List Instr
  waiting     : Bool
deriving DecidableEq, Repr

/-- The machine: the block's registers (10_state.md section 3), the configuration (00_scope.md section 4), and, as the model's own
fields, what the host, the bus environment, the Timer and the platform hold (log 2, 10, 11, 12). -/
structure State where
  conn       : Conn
  phase      : Phase
  dec        : Decoder
  result     : Result
  lastError  : Option Byte
  rxq        : List Byte
  txs        : List Byte
  cfg        : Params
  timerFires : Bool
  connectOk  : Bool
  interject  : Bool
  draws      : List Draw
  tick       : Nat
  hostQ      : List Request
  proc       : Option Proc
  report     : Option Status
  rst        : Bool
deriving DecidableEq, Repr

/-- The registers whose ⊥ a rule may meet. -/
inductive BottomReg where
  | rid | rlen | rerr
deriving DecidableEq, Repr

/-- What stops the machine. -/
inductive Fault where
  /-- Raised by the decoder where a rule reads a register that holds ⊥ as a number (R138). Safe: the spec asks for a fault, and no state
  that a run reaches raises it (R16). Log 15. -/
  | readBottom (r : BottomReg)
  /-- Raised by a command's meaning where PHASE holds a step that the command's rule does not list. Safe: no state that a run reaches
  raises it. Log 16. -/
  | noSuchStep
deriving DecidableEq, Repr

/-- What the machine has no move for. -/
inductive Refusal where
  /-- Raised by exec's arm of an instruction that has no meaning yet. Safe. -/
  | notModelled (mnemonic : String)
  /-- Raised by a meaning where its command is offered while another is in progress: a duty of the host, for which the spec says the
  model has no move (R23). Safe. Log 14. -/
  | commandWhileBusy
deriving DecidableEq, Repr

/-- One step's outcome. -/
abbrev Out := Host.Outcome State Fault Refusal

/-- The decoder's registers after reset (R139). -/
def Decoder.reset : Decoder := { dstate := .seekHeader1, rid := none, rlen := none, rerr := none, pbuf := [] }

/-- CONN after reset (R13, R139). -/
def Conn.reset : Conn := { opened := false, port := none, baud := defaultBaud, timeout := defaultTimeout }

/-- RESULT after reset (R139). -/
def Result.reset : Result := { status := none, err := none, data := .bottom }

/-- The state after reset (R139) of a block with the configuration `c`, with nothing outside it yet (log 2, 10, 11, 12). -/
def State.resetWith (c : Params) : State where
  conn       := Conn.reset
  phase      := .idle
  dec        := Decoder.reset
  result     := Result.reset
  lastError  := none
  rxq        := []
  txs        := []
  cfg        := c
  timerFires := false
  connectOk  := false
  interject  := false
  draws      := []
  tick       := 0
  hostQ      := []
  proc       := none
  report     := none
  rst        := false

/-- The machine right after reset, in the default configuration (log 3). -/
def State.reset : State := State.resetWith Params.default

end Sys2Proof.Machine
end

