-- ==== Sys2Proof/Machine/Flags.lean ====
section
/-! DEFINITION. The block has no condition flags (R11). Its status indication is RESULT: the status codes (R124), the decoder state's codes
(R15) and what each command puts into RESULT (R18, R101, R102, R125). -/

namespace Sys2Proof.Machine

/-- The 3-bit code of a status (R124). -/
def statusCode : Status → BitVec 3
  | .ok => 0
  | .connectionError => 1
  | .readTimeout => 2
  | .checksumError => 3
  | .invalidArgument => 4

/-- The 3-bit code of DSTATE (R15). -/
def dstateCode : DState → BitVec 3
  | .seekHeader1 => 0
  | .seekHeader2 => 1
  | .readId => 2
  | .readLength => 3
  | .readError => 4
  | .readParams => 5
  | .readChecksum => 6

/-- RESULT = {S, ⊥, ⊥}: what `raise S` writes (R18), and `finish(OK, ⊥, ⊥)`. -/
def plainResult (st : Status) : Result := { status := some st, err := none, data := .bottom }

/-- EXECUTE's result (R99): the decode's error byte and parameters, or the status alone. -/
def executeResult (_ : State) (st : Status) (err : Option Byte) (params : List Byte) : Result :=
  if st = .ok then { status := some .ok, err := err, data := .bytes params } else plainResult st

/-- GET_REGISTER's result (R101): FAIL on any failure; for a count of 1 the first parameter, or FAIL where there is none; else the
parameters as they came. -/
def getResult (count : Byte) (_ : State) (st : Status) (err : Option Byte) (params : List Byte) : Result :=
  if st = .ok then
    if count = 1 then
      match params with
      | v :: _ => { status := some .ok, err := err, data := .byte v }
      | [] => { status := some .ok, err := err, data := .fail }
    else { status := some .ok, err := err, data := .bytes params }
  else { status := some st, err := none, data := .fail }

/-- SET_REGISTER's result (R102): the status and a snapshot of LAST_ERROR at the finish. -/
def setResult (s : State) (st : Status) (_ : Option Byte) (_ : List Byte) : Result :=
  { status := some st, err := s.lastError, data := .bottom }

/-- READ_BYTE's result (R73): the byte it read. -/
def readByteResult (params : List Byte) : Result :=
  match params with
  | b :: _ => { status := some .ok, err := none, data := .byte b }
  | [] => plainResult .ok

end Sys2Proof.Machine
end

