-- ==== Sys2Proof/Machine/Ops.lean ====
section
/-! DEFINITION. The named operations on the block's registers (R5, R18, R22, R69, R70), what the agents outside the block do to them
(R24, R25, R27), and reset (R140). The block takes no exceptions: a status ends a command through `finish`, the one shared operation
(R18, R128, R129). -/

namespace Sys2Proof.Machine

open Config

/-- Accepting a command (R22): PHASE becomes BUSY at the command's first step; nothing else changes. -/
def accept (cmd : Instr) (s : State) : State := { s with phase := .busy cmd .validate }

/-- Going on to the next step of the command in progress (R10, R14). -/
def goto (cmd : Instr) (st : CmdStep) (s : State) : State := { s with phase := .busy cmd st }

/-- `finish` (R18): RESULT is written and PHASE returns to IDLE, in one step. -/
def finish (r : Result) (s : State) : State := { s with result := r, phase := .idle }

/-- `TxSend` (R5, R21). -/
def txSend (bs : List Byte) (s : State) : State := { s with txs := s.txs ++ bs }

/-- `RxFlush` (R70). -/
def rxFlush (s : State) : State := { s with rxq := [] }

/-- A decode starts in SEEK_HEADER1; the other decoder registers are not cleared (R82). -/
def startDecode (s : State) : State := { s with dec := { s.dec with dstate := .seekHeader1 } }

/-- What one `RxRead` does (R69): it takes the oldest byte, is ended by the Timer, or holds. -/
inductive ReadOutcome where
  | byte (b : Byte) (s : State)
  | timeout
  | hold
deriving DecidableEq, Repr

/-- `RxRead` (R69). A waiting byte is always returned before a timeout can be taken (R25). -/
def rxRead (s : State) : ReadOutcome :=
  match s.rxq with
  | b :: rest => .byte b { s with rxq := rest }
  | [] => if s.timerFires then .timeout else .hold

/-- The draw of this step: the one the state names, else the free value (log 2). -/
def currentDraw (s : State) : Draw :=
  match s.draws with
  | d :: _ => d
  | [] => Config.draw s.tick

/-- Bytes arriving from the bus: at RXQ's tail while the connection is open (R24), not at all while it is closed (R27). -/
def busAppend (bs : List Byte) (s : State) : State :=
  { s with rxq := if s.conn.opened then s.rxq ++ bs else s.rxq }

/-- What happens outside the block before its atomic step: the bus appends its bytes and the draws of the step are taken (R7; log 1).
A reset may be among them in any step (R140); it is the next step that resets the block (log 12). -/
def sample (s : State) : State :=
  let d := currentDraw s
  busAppend d.bus { s with
    timerFires := d.timer, connectOk := d.connect, interject := d.interject, rst := d.reset,
    draws := s.draws.tail, tick := s.tick + 1 }

/-- Reset (R139, R140): a command in progress is abandoned without a finish, and the configuration stays. What the host, the bus, the
Timer and the reset input hold is not the block's and stays too (log 12). -/
def resetBlock (s : State) : State :=
  { State.resetWith s.cfg with
    draws := s.draws, tick := s.tick, hostQ := s.hostQ, proc := s.proc, report := s.report, rst := s.rst }

end Sys2Proof.Machine
end

