-- ==== Sys2Proof/Machine/Operands.lean ====
section
/-! DEFINITION. The operand forms: the parameter bytes of each instruction packet (R55 to R59), the checks of a command's arguments
(R79, R103, R109, R117), and the pure functions of the download procedure (R115, R116, R118). -/

namespace Sys2Proof.Machine

open Config

/-- `lo8` of a u16 (R3, R81). -/
def lo8 (v : Nat) : Byte := lowByte (v % 256)

/-- `hi8` of a u16 (R3, R81). -/
def hi8 (v : Nat) : Byte := lowByte (v / 256)

/-- Whether a packet can be encoded (R79). -/
def encodable (id : Byte) (params : List Byte) : Bool :=
  decide (1 ≤ id.toNat) && decide (id.toNat ≤ 254) && decide (params.length ≤ maxParams)

/-- READ_DATA's parameters (R55). -/
def readParams (start count : Byte) : List Byte := [start, count]

/-- WRITE_DATA's parameters (R56). -/
def writeParams (start : Byte) (values : List Byte) : List Byte := start :: values

/-- SYNC_WRITE's row check (R103): some row, no empty row, all rows as long as the first. -/
def syncRowsOk (rows : List (List Byte)) : Bool :=
  !rows.isEmpty && rows.all (fun r => !r.isEmpty) && rows.all (fun r => r.length == (rows.headD []).length)

/-- SYNC_WRITE's per-device value count L (R57, R103). -/
def syncLen (rows : List (List Byte)) : Byte := lowByte ((rows.headD []).length - 1)

/-- SYNC_WRITE's parameters (R57, R103). -/
def syncParams (start : Byte) (rows : List (List Byte)) : List Byte := start :: syncLen rows :: rows.flatten

/-- SYNC_WRITE's argument check (R103). -/
def syncOk (start : Byte) (rows : List (List Byte)) : Bool :=
  syncRowsOk rows && decide ((syncParams start rows).length ≤ maxParams)

/-- The parameters of an OP_SYNC_WRITE packet given with its rows joined (R57). -/
def joinedParams (start len : Byte) (rows : List Byte) : List Byte := start :: len :: rows

/-- The argument check of an OP_SYNC_WRITE packet: its rows are rows of `len + 1` bytes (R57, R103), and it can be encoded. -/
def joinedOk (start len : Byte) (rows : List Byte) : Bool :=
  joinedRowsOk len rows && decide ((joinedParams start len rows).length ≤ maxParams)

/-- The bytes of one pose value (R37). -/
def poseValueBytes (w : PoseWidth) (v : Nat) : List Byte :=
  match w with
  | .one => [lowByte v]
  | .two => [lo8 v, hi8 v]

/-- The pose value bytes of R109. -/
def poseBytes (w : PoseWidth) : List Nat → List Byte
  | [] => []
  | v :: vs => poseValueBytes w v ++ poseBytes w vs

/-- Whether a value fits in POSE_VALUE_BYTES bytes (R109). -/
def poseFits (w : PoseWidth) (v : Nat) : Bool :=
  match w with
  | .one => decide (v ≤ 255)
  | .two => decide (v ≤ 65535)

/-- UPLOAD_POSE's parameters (R109). -/
def poseParams (w : PoseWidth) (k : Byte) (vals : List Nat) : List Byte := k :: poseBytes w vals

/-- OPEN's baud rate, the default where it is left out (R13). -/
def openBaud (baud : Option Nat) : Nat := baud.getD defaultBaud

/-- OPEN's timeout, the default where it is left out (R13). -/
def openTimeout (timeout : Option Nat) : Nat := timeout.getD defaultTimeout

/-- OPEN's argument check (R71). -/
def openOk (baud timeout : Option Nat) : Bool := openBaud baud != 0 && openTimeout timeout != 0

/-- The names of `seen` followed by the names of `ts` that are not among them, each once, in order of first appearance (R115). -/
def assignFrom (seen : List PoseName) : List Transition → List PoseName
  | [] => seen
  | t :: ts => assignFrom (if t.name ∈ seen then seen else seen ++ [t.name]) ts

/-- R115's map as the list of its keys in insertion order: a name's index is its place in the list. -/
def assign (ts : List Transition) : List PoseName := assignFrom [] ts

/-- The index R115 assigns to a name. -/
def poseIndex (names : List PoseName) (n : PoseName) : Nat := names.idxOf n

/-- One record of the transition stream (R59, R116). -/
def transitionRecord (names : List PoseName) (t : Transition) : List Byte :=
  [lowByte (poseIndex names t.name), lo8 t.duration, hi8 t.duration]

/-- The records of the stream, in list order (R116). -/
def transitionRecords (names : List PoseName) : List Transition → List Byte
  | [] => []
  | t :: ts => transitionRecord names t ++ transitionRecords names ts

/-- The transition stream with its sentinel (R116). -/
def stream (names : List PoseName) (ts : List Transition) : List Byte := transitionRecords names ts ++ [255, 0, 0]

/-- The lookup from pose name to register values: the first pose of that name (log 13). -/
def lookupPose : List Pose → PoseName → Option (List Nat)
  | [], _ => none
  | p :: ps, n => if p.name = n then some p.values else lookupPose ps n

/-- A pose that is uploaded has `count` values, each of the configured width (R117). -/
def poseOk (w : PoseWidth) (poses : List Pose) (count : Nat) (n : PoseName) : Bool :=
  match lookupPose poses n with
  | some vs => vs.length == count && vs.all (poseFits w)
  | none => false

/-- The check of a transition (R117). -/
def transitionOk (poses : List Pose) (t : Transition) : Bool :=
  decide (1 ≤ t.duration) && decide (t.duration ≤ 65535) && (lookupPose poses t.name).isSome

/-- DOWNLOAD's check of its inputs (R117). -/
def downloadOk (w : PoseWidth) (ts : List Transition) (poses : List Pose) (count : Nat) (mode : PlayMode) : Bool :=
  (mode == .play || mode == .loop) && ts.all (transitionOk poses) && decide (count ≤ 255) &&
    (assign ts).all (poseOk w poses count) && decide (1 + count * w.toNat ≤ maxParams) &&
    decide (3 * ts.length + 3 ≤ maxParams)

/-- The uploads of DOWNLOAD, in assignment order, the first with index `k` (R118). -/
def uploads (poses : List Pose) (k : Nat) : List PoseName → List Instr
  | [] => []
  | n :: ns => .uploadPose (lowByte k) ((lookupPose poses n).getD []) :: uploads poses (k + 1) ns

/-- The last command of DOWNLOAD (R118). -/
def startCommand : PlayMode → Instr
  | .play => .play
  | .loop => .loop
  | .other => .loop

/-- The commands of DOWNLOAD, in order (R118). -/
def downloadPlan (ts : List Transition) (poses : List Pose) (count : Nat) (mode : PlayMode) : List Instr :=
  .setPoseSize (lowByte count) :: uploads poses 0 (assign ts) ++ [.uploadSequence (stream (assign ts) ts), startCommand mode]

/-- A command that sends the halt byte and nothing else (R113). -/
def isHalt (i : Instr) : Bool := i == .halt || i == .haltByte || i == .writeRaw [Config.haltByte]

/-- The bytes that the send step of an instruction puts on the line. -/
def sent (c : Params) : Instr → List Byte
  | .opReadData id start count => packet id c.opReadData (readParams start count)
  | .opWriteData id start values => packet id c.opWriteData (writeParams start values)
  | .opSyncWrite start len rows => packet broadcastId c.opSyncWrite (joinedParams start len rows)
  | .opSetPoseSize n => packet controllerId c.opSetPoseSize [n]
  | .opLoadPose k bs => packet controllerId c.opLoadPose (k :: bs)
  | .opLoadSeq s => packet controllerId c.opLoadSeq s
  | .opPlay => packet controllerId c.opPlay []
  | .opLoop => packet controllerId c.opLoop []
  | .haltByte => [Config.haltByte]
  | .openPort _ _ _ => []
  | .writeRaw bytes => bytes
  | .readByte => []
  | .flushInput => []
  | .execute id instr params => packet id instr params
  | .getRegister id start count => packet id c.opReadData (readParams start count)
  | .setRegister id start values => packet id c.opWriteData (writeParams start values)
  | .syncWrite start rows => packet broadcastId c.opSyncWrite (syncParams start rows)
  | .setPoseSize n => packet controllerId c.opSetPoseSize [n]
  | .uploadPose k vals => packet controllerId c.opLoadPose (poseParams c.poseBytes k vals)
  | .uploadSequence s => packet controllerId c.opLoadSeq s
  | .play => packet controllerId c.opPlay []
  | .loop => packet controllerId c.opLoop []
  | .halt => [Config.haltByte]
  | .download _ _ _ _ => []

/-- The argument check of an instruction's validation step (R79, R71, R103, R109, R117). -/
def argsOk (c : Params) : Instr → Bool
  | .opReadData id start count => encodable id (readParams start count)
  | .opWriteData id start values => encodable id (writeParams start values)
  | .opSyncWrite start len rows => joinedOk start len rows
  | .opSetPoseSize n => encodable controllerId [n]
  | .opLoadPose k bs => encodable controllerId (k :: bs)
  | .opLoadSeq s => encodable controllerId s
  | .opPlay => encodable controllerId []
  | .opLoop => encodable controllerId []
  | .haltByte => true
  | .openPort _ baud timeout => openOk baud timeout
  | .writeRaw _ => true
  | .readByte => true
  | .flushInput => true
  | .execute id _ params => encodable id params
  | .getRegister id start count => encodable id (readParams start count)
  | .setRegister id start values => encodable id (writeParams start values)
  | .syncWrite start rows => syncOk start rows
  | .setPoseSize n => encodable controllerId [n]
  | .uploadPose k vals =>
      vals.all (poseFits c.poseBytes) && encodable controllerId (poseParams c.poseBytes k vals)
  | .uploadSequence s => encodable controllerId s
  | .play => encodable controllerId []
  | .loop => encodable controllerId []
  | .halt => true
  | .download ts poses count mode => downloadOk c.poseBytes ts poses count mode

end Sys2Proof.Machine
end

