-- ==== Sys2Proof/Machine/Codec.lean ====
section
/-! DEFINITION. The status-packet decoder (R82 to R93): what one received byte does to it, and the same over a list of bytes. -/

namespace Sys2Proof.Machine

open Config

/-- What one byte does to the decoder: it goes on, or the decode ends (R91), or a rule read a register that holds ⊥ (R138). -/
inductive DecEvent where
  | more (d : Decoder)
  | success (err : Byte) (params : List Byte)
  | checksumError
  | bottom (r : BottomReg)
deriving DecidableEq, Repr

/-- SEEK_HEADER1 (R83). -/
def seekHeader1 (d : Decoder) (b : Byte) : DecEvent :=
  .more { d with dstate := if b = headerByte then .seekHeader2 else .seekHeader1 }

/-- SEEK_HEADER2 (R84): a mismatching byte is discarded. -/
def seekHeader2 (d : Decoder) (b : Byte) : DecEvent :=
  .more { d with dstate := if b = headerByte then .readId else .seekHeader1 }

/-- READ_ID (R85): 0xFF is consumed and not taken as a header byte. -/
def readId (d : Decoder) (b : Byte) : DecEvent :=
  if b ≠ headerByte then .more { d with rid := some b, dstate := .readLength }
  else .more { d with dstate := .seekHeader1 }

/-- READ_LENGTH (R86). -/
def readLength (d : Decoder) (b : Byte) : DecEvent := .more { d with rlen := some b, dstate := .readError }

/-- READ_ERROR (R87), but for LAST_ERROR, which is not one of the decoder's registers. -/
def readError (d : Decoder) (b : Byte) : DecEvent :=
  match d.rlen with
  | none => .bottom .rlen
  | some l => .more { d with rerr := some b, pbuf := [], dstate := if l.toNat = 2 then .readChecksum else .readParams }

/-- PBUF with one more byte, unless it is at its capacity (R88). -/
def pbufPush (pbuf : List Byte) (b : Byte) : List Byte := if pbuf.length < pbufCap then pbuf ++ [b] else pbuf

/-- READ_PARAMS (R88). The comparison of |PBUF| with RLEN − 2 is made in the integers, here as |PBUF| + 2 = RLEN (R81). -/
def readParam (d : Decoder) (b : Byte) : DecEvent :=
  match d.rlen with
  | none => .bottom .rlen
  | some l =>
    .more { d with
      pbuf := pbufPush d.pbuf b
      dstate := if (pbufPush d.pbuf b).length + 2 = l.toNat then .readChecksum else .readParams }

/-- READ_CHECKSUM (R89). -/
def readChecksum (d : Decoder) (b : Byte) : DecEvent :=
  match d.rid, d.rlen, d.rerr with
  | none, _, _ => .bottom .rid
  | _, none, _ => .bottom .rlen
  | _, _, none => .bottom .rerr
  | some i, some l, some e => if checksumOk i l e d.pbuf b then .success e d.pbuf else .checksumError

/-- What one received byte does to the decoder (R82). -/
def decoderByte (d : Decoder) (b : Byte) : DecEvent :=
  match d.dstate with
  | .seekHeader1 => seekHeader1 d b
  | .seekHeader2 => seekHeader2 d b
  | .readId => readId d b
  | .readLength => readLength d b
  | .readError => readError d b
  | .readParams => readParam d b
  | .readChecksum => readChecksum d b

/-- LAST_ERROR after one received byte: the byte itself in READ_ERROR, else unchanged (R19, R87). -/
def lastErrorAfter (d : Decoder) (b : Byte) (last : Option Byte) : Option Byte :=
  if d.dstate = .readError then some b else last

/-- Where a decode that is given a list of bytes and nothing else stands: still running, or ended with its outcome, the decoder's
registers at its end and the bytes it did not consume (R91, R92). -/
inductive DecodeRun where
  | running (d : Decoder)
  | success (err : Byte) (params : List Byte) (d : Decoder) (rest : List Byte)
  | checksumError (d : Decoder) (rest : List Byte)
  | bottom (r : BottomReg)
deriving DecidableEq, Repr

/-- The decoder over a list of bytes, one at a time (R82). -/
def feed (d : Decoder) : List Byte → DecodeRun
  | [] => .running d
  | b :: bs =>
    match decoderByte d b with
    | .more d' => feed d' bs
    | .success e ps => .success e ps d bs
    | .checksumError => .checksumError d bs
    | .bottom r => .bottom r

end Sys2Proof.Machine
end

