-- ==== Sys2Proof/Machine/Command.lean ====
section
/-! DEFINITION. The step sequences that commands share (R10, R29): accept, validation, and then either a packet or raw list sent, or an
exchange. Every status ends a command at the step that found it, by `finish` in the same step (R128). -/

namespace Sys2Proof.Machine

/-- One step of the command `self`: accepted where the block is IDLE (R22), its next step where it is the command in progress. A
command offered while another one is in progress has no move (R23; log 14). -/
def atStep (self : Instr) (s : State) (body : CmdStep → Out) : Out :=
  match s.phase with
  | .idle => .next (accept self s)
  | .busy cmd st => if cmd = self then body st else .refused .commandWhileBusy

/-- The validation step: the argument check, then the connection check (R75, R127). `fail` is what the command puts into RESULT. -/
def validateStep (self : Instr) (fail : Status → Result) (next : CmdStep) (s : State) : Out :=
  if argsOk s.cfg self = false then .next (finish (fail .invalidArgument) s)
  else if s.conn.opened = false then .next (finish (fail .connectionError) s)
  else .next (goto self next s)

/-- One decoder step of the command `self` (R82, R90): a byte, a timeout, or a hold. `fin` is the command's use of the outcome (R91). -/
def decodeStep (self : Instr) (fin : State → Status → Option Byte → List Byte → Result) (s : State) : Out :=
  match rxRead s with
  | .hold => .next s
  | .timeout => .next (finish (fin s .readTimeout none []) s)
  | .byte b s' =>
    match decoderByte s.dec b with
    | .more d => .next { s' with dec := d, lastError := lastErrorAfter s.dec b s.lastError }
    | .success e ps => .next (goto self (.finish (some e) ps) s')
    | .checksumError => .next (finish (fin s' .checksumError none []) s')
    | .bottom r => .fault (.readBottom r)

/-- EXECUTE's steps (R99), shared by every instruction that sends a packet and reads an answer: validate, flush, send, decode, finish. -/
def exchange (self : Instr) (fin : State → Status → Option Byte → List Byte → Result) (s : State) : Out :=
  atStep self s fun st =>
    match st with
    | .validate => validateStep self (fun e => fin s e none []) .flush s
    | .flush => .next (goto self .send (rxFlush s))
    | .send => .next (goto self .decode (startDecode (txSend (sent s.cfg self) s)))
    | .decode => decodeStep self fin s
    | .finish err params => .next (finish (fin s .ok err params) s)
    | .connect => .fault .noSuchStep
    | .read => .fault .noSuchStep

/-- The steps of an instruction that only sends (R72, R103, R113): validate, send, finish. -/
def transmit (self : Instr) (s : State) : Out :=
  atStep self s fun st =>
    match st with
    | .validate => validateStep self plainResult .send s
    | .send => .next (goto self (.finish none []) (txSend (sent s.cfg self) s))
    | .finish _ _ => .next (finish (plainResult .ok) s)
    | .connect => .fault .noSuchStep
    | .flush => .fault .noSuchStep
    | .read => .fault .noSuchStep
    | .decode => .fault .noSuchStep

end Sys2Proof.Machine
end

