-- ==== Sys2Proof/Machine/BusClient.lean ====
section
/-! DEFINITION. The bus client commands (R99 to R105). -/

namespace Sys2Proof.Machine

/-- EXECUTE (R99); the broadcast id gets no special treatment (R100). -/
def execExecute (id instr : Byte) (params : List Byte) (s : State) : Out :=
  exchange (.execute id instr params) executeResult s

/-- GET_REGISTER (R101). -/
def execGetRegister (id start count : Byte) (s : State) : Out :=
  exchange (.getRegister id start count) (getResult count) s

/-- SET_REGISTER (R102). -/
def execSetRegister (id start : Byte) (values : List Byte) (s : State) : Out :=
  exchange (.setRegister id start values) setResult s

/-- SYNC_WRITE (R103): no flush and no decode. -/
def execSyncWrite (start : Byte) (rows : List (List Byte)) (s : State) : Out :=
  transmit (.syncWrite start rows) s

end Sys2Proof.Machine
end

