-- ==== Sys2Proof/Machine/Controller.lean ====
section
/-! DEFINITION. The controller-board pseudo-commands (R108 to R114): each is the EXECUTE or WRITE_RAW it expands to (R67). -/

namespace Sys2Proof.Machine

/-- SET_POSE_SIZE (R108). -/
def execSetPoseSize (n : Byte) (s : State) : Out := exchange (.setPoseSize n) executeResult s

/-- UPLOAD_POSE (R109); its check of the values' width comes with the argument checks (R125). -/
def execUploadPose (k : Byte) (vals : List Nat) (s : State) : Out := exchange (.uploadPose k vals) executeResult s

/-- UPLOAD_SEQUENCE (R110). -/
def execUploadSequence (stream : List Byte) (s : State) : Out := exchange (.uploadSequence stream) executeResult s

/-- PLAY (R111). -/
def execPlay (s : State) : Out := exchange .play executeResult s

/-- LOOP (R112). -/
def execLoop (s : State) : Out := exchange .loop executeResult s

/-- HALT (R113). -/
def execHalt (s : State) : Out := transmit .halt s

end Sys2Proof.Machine
end

