-- ==== Sys2Proof/Machine/Download.lean ====
section
/-! DEFINITION. The host procedure DOWNLOAD (R117 to R119): it adds no state to the block; what it has still to do is the host's (log 11). -/

namespace Sys2Proof.Machine

/-- DOWNLOAD's first step: the check of its inputs (R117), which sends nothing if it fails (R125), else the list of its commands (R118). -/
def downloadStart (ts : List Transition) (poses : List Pose) (count : Nat) (mode : PlayMode) (s : State) : State :=
  if argsOk s.cfg (.download ts poses count mode) then
    { s with
      proc := some { transitions := ts, poses := poses, count := count, mode := mode,
                     todo := downloadPlan ts poses count mode, waiting := false }
      report := none }
  else { finish (plainResult .invalidArgument) s with report := some .invalidArgument }

/-- A later step of a running DOWNLOAD with the block IDLE: look at the status of the command that has finished and stop on the first
failure (R118, R119); else issue the next command; else report OK. -/
def downloadNext (p : Proc) (s : State) : State :=
  if p.waiting then
    if s.result.status = some .ok then { s with proc := some { p with waiting := false } }
    else { s with proc := none, report := s.result.status }
  else
    match p.todo with
    | [] => { s with proc := none, report := some .ok }
    | c :: rest => accept c { s with proc := some { p with todo := rest, waiting := true } }

/-- DOWNLOAD (R118). A second DOWNLOAD while one runs has no move, as users of one block are serialised (R145; log 14). -/
def execDownload (ts : List Transition) (poses : List Pose) (count : Nat) (mode : PlayMode) (s : State) : Out :=
  match s.phase with
  | .busy _ _ => .refused .commandWhileBusy
  | .idle =>
    match s.proc with
    | none => .next (downloadStart ts poses count mode s)
    | some p =>
      if p.transitions = ts ∧ p.poses = poses ∧ p.count = count ∧ p.mode = mode then .next (downloadNext p s)
      else .refused .commandWhileBusy

end Sys2Proof.Machine
end

