-- ==== Sys2Proof/Machine/Packets.lean ====
section
/-! DEFINITION. The instruction packets of R54 and the halt byte, as the block runs them (log 5, 6): each is sent, and its answer decoded
where the table of R54 says that a response is read, as EXECUTE does for that id, opcode and parameters. -/

namespace Sys2Proof.Machine

/-- OP_READ_DATA (R55). -/
def execOpReadData (id start count : Byte) (s : State) : Out := exchange (.opReadData id start count) executeResult s

/-- OP_WRITE_DATA (R56). -/
def execOpWriteData (id start : Byte) (values : List Byte) (s : State) : Out :=
  exchange (.opWriteData id start values) executeResult s

/-- OP_SYNC_WRITE (R57): no response is read. -/
def execOpSyncWrite (start len : Byte) (rows : List Byte) (s : State) : Out := transmit (.opSyncWrite start len rows) s

/-- OP_SET_POSE_SIZE (R58). -/
def execOpSetPoseSize (n : Byte) (s : State) : Out := exchange (.opSetPoseSize n) executeResult s

/-- OP_LOAD_POSE (R58). -/
def execOpLoadPose (k : Byte) (valueBytes : List Byte) (s : State) : Out := exchange (.opLoadPose k valueBytes) executeResult s

/-- OP_LOAD_SEQ (R58, R59). -/
def execOpLoadSeq (stream : List Byte) (s : State) : Out := exchange (.opLoadSeq stream) executeResult s

/-- OP_PLAY (R58). -/
def execOpPlay (s : State) : Out := exchange .opPlay executeResult s

/-- OP_LOOP (R58). -/
def execOpLoop (s : State) : Out := exchange .opLoop executeResult s

/-- HALT_BYTE (R47): the raw byte, outside packet framing. -/
def execHaltByte (s : State) : Out := transmit .haltByte s

end Sys2Proof.Machine
end

