-- ==== Sys2Proof/Machine/Transport.lean ====
section
/-! DEFINITION. The transport commands (R71 to R74). -/

namespace Sys2Proof.Machine

/-- CONN after a successful OPEN (R71). -/
def openedConn (port : Port) (baud timeout : Option Nat) : Conn :=
  { opened := true, port := some port, baud := openBaud baud, timeout := openTimeout timeout }

/-- OPEN's CONNECT draw with its RXQ <- [] (R71; log 9): a failure closes the block and finishes at once (R128). -/
def connectStep (self : Instr) (s : State) : Out :=
  if s.connectOk then .next (goto self (.finish none []) (rxFlush s))
  else .next (finish (plainResult .connectionError)
    { rxFlush s with conn := { s.conn with opened := false, port := none } })

/-- OPEN (R71). -/
def execOpenPort (port : Port) (baud timeout : Option Nat) (s : State) : Out :=
  let self : Instr := .openPort port baud timeout
  atStep self s fun st =>
    match st with
    | .validate =>
      if argsOk s.cfg self = false then .next (finish (plainResult .invalidArgument) s)
      else .next (goto self .connect s)
    | .connect => connectStep self s
    | .finish _ _ => .next (finish (plainResult .ok) { s with conn := openedConn port baud timeout })
    | .flush => .fault .noSuchStep
    | .send => .fault .noSuchStep
    | .read => .fault .noSuchStep
    | .decode => .fault .noSuchStep

/-- WRITE_RAW (R72). -/
def execWriteRaw (bytes : List Byte) (s : State) : Out := transmit (.writeRaw bytes) s

/-- READ_BYTE's RxRead (R69, R73). -/
def readStep (s : State) : Out :=
  match rxRead s with
  | .hold => .next s
  | .timeout => .next (finish (plainResult .readTimeout) s)
  | .byte b s' => .next (goto .readByte (.finish none [b]) s')

/-- READ_BYTE (R73). -/
def execReadByte (s : State) : Out :=
  atStep .readByte s fun st =>
    match st with
    | .validate => validateStep .readByte plainResult .read s
    | .read => readStep s
    | .finish _ params => .next (finish (readByteResult params) s)
    | .connect => .fault .noSuchStep
    | .flush => .fault .noSuchStep
    | .send => .fault .noSuchStep
    | .decode => .fault .noSuchStep

/-- FLUSH_INPUT (R74). -/
def execFlushInput (s : State) : Out :=
  atStep .flushInput s fun st =>
    match st with
    | .validate => validateStep .flushInput plainResult .flush s
    | .flush => .next (goto .flushInput (.finish none []) (rxFlush s))
    | .finish _ _ => .next (finish (plainResult .ok) s)
    | .connect => .fault .noSuchStep
    | .send => .fault .noSuchStep
    | .read => .fault .noSuchStep
    | .decode => .fault .noSuchStep

end Sys2Proof.Machine
end

