-- ==== Sys2Proof/Machine/Dispatch.lean ====
section
/-! DEFINITION. exec: one arm for each instruction, each one call of its meaning. -/

namespace Sys2Proof.Machine

def exec (i : Instr) (s : State) : Host.Outcome State Fault Refusal :=
  match i with
  | .opReadData id start count => Sys2Proof.Machine.execOpReadData id start count s
  | .opWriteData id start values => Sys2Proof.Machine.execOpWriteData id start values s
  | .opSyncWrite start len rows => Sys2Proof.Machine.execOpSyncWrite start len rows s
  | .opSetPoseSize n => Sys2Proof.Machine.execOpSetPoseSize n s
  | .opLoadPose k bs => Sys2Proof.Machine.execOpLoadPose k bs s
  | .opLoadSeq stream => Sys2Proof.Machine.execOpLoadSeq stream s
  | .opPlay => Sys2Proof.Machine.execOpPlay s
  | .opLoop => Sys2Proof.Machine.execOpLoop s
  | .haltByte => Sys2Proof.Machine.execHaltByte s
  | .openPort port baud timeout => Sys2Proof.Machine.execOpenPort port baud timeout s
  | .writeRaw bytes => Sys2Proof.Machine.execWriteRaw bytes s
  | .readByte => Sys2Proof.Machine.execReadByte s
  | .flushInput => Sys2Proof.Machine.execFlushInput s
  | .execute id instr params => Sys2Proof.Machine.execExecute id instr params s
  | .getRegister id start count => Sys2Proof.Machine.execGetRegister id start count s
  | .setRegister id start values => Sys2Proof.Machine.execSetRegister id start values s
  | .syncWrite start rows => Sys2Proof.Machine.execSyncWrite start rows s
  | .setPoseSize n => Sys2Proof.Machine.execSetPoseSize n s
  | .uploadPose k vals => Sys2Proof.Machine.execUploadPose k vals s
  | .uploadSequence stream => Sys2Proof.Machine.execUploadSequence stream s
  | .play => Sys2Proof.Machine.execPlay s
  | .loop => Sys2Proof.Machine.execLoop s
  | .halt => Sys2Proof.Machine.execHalt s
  | .download ts poses count mode => Sys2Proof.Machine.execDownload ts poses count mode s

end Sys2Proof.Machine
end

