-- ==== Sys2Proof/Machine/Fetch.lean ====
section
/-! DEFINITION. What the machine does next: the command in progress, the host's running procedure, or the host's next request
(R10, R22, R118; log 10). -/

namespace Sys2Proof.Machine

open Config

/-- What a step does once the draws are taken: run an instruction, or end in a state. -/
inductive Action where
  | run (i : Instr) (s : State)
  | settle (s : State)
deriving DecidableEq, Repr

/-- What is no command is refused: `finish(INVALID_ARGUMENT, ⊥, ⊥)` and no bus activity (R66 for an unknown tag; log 17 for bytes that are no
packet). DESIGN CHOICE (log 20), unsafe for a claim about PHASE at that moment: it finishes in one step out of IDLE, without an accept
or a validation step, where the spec says only that it is refused. -/
def refuseRequest (s : State) : State := finish (plainResult .invalidArgument) s

/-- The host's next request. With none the block stays IDLE (R141). -/
def fetchRequest (s : State) : Action :=
  match s.hostQ with
  | [] => .settle s
  | r :: rest =>
    match decode s.cfg r with
    | .instr i => .run i { s with hostQ := rest }
    | .unknownTag _ => .settle (refuseRequest { s with hostQ := rest })
    | .malformed _ => .settle (refuseRequest { s with hostQ := rest })

/-- Whether the host's next request is a halt, the one command it may issue between the commands of a DOWNLOAD (R113). -/
def haltRequested (s : State) : Bool :=
  match s.hostQ with
  | [] => false
  | r :: _ =>
    match decode s.cfg r with
    | .instr i => isHalt i
    | _ => false

/-- The command in progress goes on (R10); else a running DOWNLOAD does, unless the host puts a halt between its commands (R113, R123);
else the host's next request is taken (R22). -/
def nextAction (s : State) : Action :=
  match s.phase with
  | .busy cmd _ => .run cmd s
  | .idle =>
    match s.proc with
    | none => fetchRequest s
    | some p =>
      if !p.waiting && s.interject && haltRequested s then fetchRequest s
      else .run (.download p.transitions p.poses p.count p.mode) s

/-- `s` with the table's instruction handed over as the host's next request, and the block ready to take it (log 10). -/
def placeRequest (s : State) (nbits w : Nat) : State :=
  { s with phase := .idle, proc := none, rst := false, hostQ := tableRequest nbits w :: s.hostQ }

end Sys2Proof.Machine
end

