-- ==== Sys2Proof/Machine/Step.lean ====
section
/-! DEFINITION. One step of the machine: the draws of the step (R7), and then a reset if the reset input was up before them (R140; log 12),
else one atomic step of the block or of the host (R29). -/

namespace Sys2Proof.Machine

/-- One step. Whether the step after it is a reset is one of its draws, so a reset may come between any two steps (R140; log 12). -/
def step (s : State) : Host.Outcome State Fault Refusal :=
  if s.rst then .next (resetBlock (sample s))
  else
    match nextAction (sample s) with
    | .run i s' => exec i s'
    | .settle s' => .next s'

/-- `s` with the instruction of one opcode-table row as the one the next step runs. -/
def State.withFetchWord (s : State) (nbits w : Nat) : State := placeRequest s nbits w

end Sys2Proof.Machine
end

