-- ==== Sys2Proof/WellFormed.lean ====
section
/-! DEFINITION. The operand ranges that the opcode table and the commands' rules give. An ill-formed command is still an
instruction: its rule ends it with INVALID_ARGUMENT. -/

namespace Sys2Proof

open Config

/-- A target id a packet may have: 1..254 (R79). -/
def targetOk (id : Byte) : Bool := id != 0 && id != 255

/-- At most 253 parameter bytes (R79). -/
def lengthOk (n : Nat) : Bool := decide (n ≤ 253)

/-- Rows of SYNC_WRITE: at least one, none empty, all of one length (R103). -/
def rowsOk (rows : List (List Byte)) : Bool :=
  match rows with
  | [] => false
  | r :: rest => !r.isEmpty && rest.all fun r' => r'.length == r.length

/-- The widest value that fits a pose value (R109). -/
def poseLimit : PoseWidth → Nat
  | .one => 255
  | .two => 65535

/-- The check of a transition's duration (R117). -/
def durationOk (t : Transition) : Bool := decide (1 ≤ t.duration) && decide (t.duration ≤ 65535)

/-- The operands are in the ranges the table's row gives. The fields of a DOWNLOAD that need the pose lookup are checked by its
own rule (R117); here stand the ranges of each operand by itself. -/
def Instr.wellFormed (c : Params) : Instr → Bool
  | .opReadData id _ _ => targetOk id
  | .opWriteData id _ vs => targetOk id && lengthOk (1 + vs.length)
  | .opSyncWrite _ len rows => !rows.isEmpty && rows.length % (len.toNat + 1) == 0 && lengthOk (2 + rows.length)
  | .opSetPoseSize _ => true
  | .opLoadPose _ bs => lengthOk (1 + bs.length)
  | .opLoadSeq s => lengthOk s.length
  | .opPlay => true
  | .opLoop => true
  | .haltByte => true
  | .openPort _ baud timeout => baud != some 0 && timeout != some 0
  | .writeRaw _ => true
  | .readByte => true
  | .flushInput => true
  | .execute id _ ps => targetOk id && lengthOk ps.length
  | .getRegister id _ _ => targetOk id
  | .setRegister id _ vs => targetOk id && lengthOk (1 + vs.length)
  | .syncWrite _ rows => rowsOk rows && lengthOk (2 + rows.flatten.length)
  | .setPoseSize _ => true
  | .uploadPose _ vals =>
      vals.all (fun v => decide (v ≤ poseLimit c.poseBytes)) && lengthOk (1 + vals.length * c.poseBytes.toNat)
  | .uploadSequence s => lengthOk s.length
  | .play => true
  | .loop => true
  | .halt => true
  | .download ts _ n m =>
      ts.all durationOk && decide (n ≤ 255) && m != .other && lengthOk (3 * ts.length + 3)

end Sys2Proof
end

