-- ==== Sys2Proof/Safety.lean ====
section
/-! DEFINITION. The terms claims are stated in: the groups of instructions, the packet each one stands for, several steps of one command,
what the host observes, the frame of a step, runs and the fairness of the Timer, and the machine's invariant. -/

namespace Sys2Proof.Machine

open Config

/-- The instructions that send a packet and read an answer (R54: "response read: yes"). -/
def exchanges : Instr → Bool
  | .opReadData _ _ _ => true
  | .opWriteData _ _ _ => true
  | .opSyncWrite _ _ _ => false
  | .opSetPoseSize _ => true
  | .opLoadPose _ _ => true
  | .opLoadSeq _ => true
  | .opPlay => true
  | .opLoop => true
  | .haltByte => false
  | .openPort _ _ _ => false
  | .writeRaw _ => false
  | .readByte => false
  | .flushInput => false
  | .execute _ _ _ => true
  | .getRegister _ _ _ => true
  | .setRegister _ _ _ => true
  | .syncWrite _ _ => false
  | .setPoseSize _ => true
  | .uploadPose _ _ => true
  | .uploadSequence _ => true
  | .play => true
  | .loop => true
  | .halt => false
  | .download _ _ _ _ => false

/-- The exchanges whose result is EXECUTE's (R99): all but GET_REGISTER and SET_REGISTER. -/
def executeLike : Instr → Bool
  | .opReadData _ _ _ => true
  | .opWriteData _ _ _ => true
  | .opSyncWrite _ _ _ => false
  | .opSetPoseSize _ => true
  | .opLoadPose _ _ => true
  | .opLoadSeq _ => true
  | .opPlay => true
  | .opLoop => true
  | .haltByte => false
  | .openPort _ _ _ => false
  | .writeRaw _ => false
  | .readByte => false
  | .flushInput => false
  | .execute _ _ _ => true
  | .getRegister _ _ _ => false
  | .setRegister _ _ _ => false
  | .syncWrite _ _ => false
  | .setPoseSize _ => true
  | .uploadPose _ _ => true
  | .uploadSequence _ => true
  | .play => true
  | .loop => true
  | .halt => false
  | .download _ _ _ _ => false

/-- What an exchange puts into RESULT for an outcome (R18, R99, R101, R102). -/
def resultOf : Instr → State → Status → Option Byte → List Byte → Result
  | .opReadData _ _ _ => executeResult
  | .opWriteData _ _ _ => executeResult
  | .opSyncWrite _ _ _ => executeResult
  | .opSetPoseSize _ => executeResult
  | .opLoadPose _ _ => executeResult
  | .opLoadSeq _ => executeResult
  | .opPlay => executeResult
  | .opLoop => executeResult
  | .haltByte => executeResult
  | .openPort _ _ _ => executeResult
  | .writeRaw _ => executeResult
  | .readByte => executeResult
  | .flushInput => executeResult
  | .execute _ _ _ => executeResult
  | .getRegister _ _ count => getResult count
  | .setRegister _ _ _ => setResult
  | .syncWrite _ _ => executeResult
  | .setPoseSize _ => executeResult
  | .uploadPose _ _ => executeResult
  | .uploadSequence _ => executeResult
  | .play => executeResult
  | .loop => executeResult
  | .halt => executeResult
  | .download _ _ _ _ => executeResult

/-- The instructions that only send (R72, R103, R113). -/
def transmits : Instr → Bool
  | .opReadData _ _ _ => false
  | .opWriteData _ _ _ => false
  | .opSyncWrite _ _ _ => true
  | .opSetPoseSize _ => false
  | .opLoadPose _ _ => false
  | .opLoadSeq _ => false
  | .opPlay => false
  | .opLoop => false
  | .haltByte => true
  | .openPort _ _ _ => false
  | .writeRaw _ => true
  | .readByte => false
  | .flushInput => false
  | .execute _ _ _ => false
  | .getRegister _ _ _ => false
  | .setRegister _ _ _ => false
  | .syncWrite _ _ => true
  | .setPoseSize _ => false
  | .uploadPose _ _ => false
  | .uploadSequence _ => false
  | .play => false
  | .loop => false
  | .halt => true
  | .download _ _ _ _ => false

/-- Whether an instruction is OPEN. -/
def isOpen : Instr → Bool
  | .opReadData _ _ _ => false
  | .opWriteData _ _ _ => false
  | .opSyncWrite _ _ _ => false
  | .opSetPoseSize _ => false
  | .opLoadPose _ _ => false
  | .opLoadSeq _ => false
  | .opPlay => false
  | .opLoop => false
  | .haltByte => false
  | .openPort _ _ _ => true
  | .writeRaw _ => false
  | .readByte => false
  | .flushInput => false
  | .execute _ _ _ => false
  | .getRegister _ _ _ => false
  | .setRegister _ _ _ => false
  | .syncWrite _ _ => false
  | .setPoseSize _ => false
  | .uploadPose _ _ => false
  | .uploadSequence _ => false
  | .play => false
  | .loop => false
  | .halt => false
  | .download _ _ _ _ => false

/-- Whether an instruction is the host procedure. -/
def isDownload : Instr → Bool
  | .opReadData _ _ _ => false
  | .opWriteData _ _ _ => false
  | .opSyncWrite _ _ _ => false
  | .opSetPoseSize _ => false
  | .opLoadPose _ _ => false
  | .opLoadSeq _ => false
  | .opPlay => false
  | .opLoop => false
  | .haltByte => false
  | .openPort _ _ _ => false
  | .writeRaw _ => false
  | .readByte => false
  | .flushInput => false
  | .execute _ _ _ => false
  | .getRegister _ _ _ => false
  | .setRegister _ _ _ => false
  | .syncWrite _ _ => false
  | .setPoseSize _ => false
  | .uploadPose _ _ => false
  | .uploadSequence _ => false
  | .play => false
  | .loop => false
  | .halt => false
  | .download _ _ _ _ => true

/-- The target id, opcode and parameter bytes of the packet an instruction stands for, from the tables of R54 and R67; none for
an instruction that frames no packet. -/
def packetOf (c : Params) : Instr → Option (Byte × Byte × List Byte)
  | .opReadData id start count => some (id, c.opReadData, [start, count])
  | .opWriteData id start values => some (id, c.opWriteData, [start] ++ values)
  | .opSyncWrite start len rows => some (254, c.opSyncWrite, [start, len] ++ rows)
  | .opSetPoseSize n => some (253, c.opSetPoseSize, [n])
  | .opLoadPose k bs => some (253, c.opLoadPose, [k] ++ bs)
  | .opLoadSeq s => some (253, c.opLoadSeq, s)
  | .opPlay => some (253, c.opPlay, [])
  | .opLoop => some (253, c.opLoop, [])
  | .execute id instr params => some (id, instr, params)
  | .getRegister id start count => some (id, c.opReadData, [start, count])
  | .setRegister id start values => some (id, c.opWriteData, [start] ++ values)
  | .syncWrite start rows => some (254, c.opSyncWrite, [start, lowByte ((rows.headD []).length - 1)] ++ rows.flatten)
  | .setPoseSize n => some (253, c.opSetPoseSize, [n])
  | .uploadPose k vals => some (253, c.opLoadPose, [k] ++ poseBytes c.poseBytes vals)
  | .uploadSequence s => some (253, c.opLoadSeq, s)
  | .play => some (253, c.opPlay, [])
  | .loop => some (253, c.opLoop, [])
  | .haltByte => none
  | .openPort _ _ _ => none
  | .writeRaw _ => none
  | .readByte => none
  | .flushInput => none
  | .halt => none
  | .download _ _ _ _ => none

/-- The instructions that are handed over as the bytes of an instruction packet (R45, R54; log 5), and not as a command record (R66), a raw
byte (R47) or by a name (R67, R118). -/
def framed : Instr → Bool
  | .opReadData _ _ _ => true
  | .opWriteData _ _ _ => true
  | .opSyncWrite _ _ _ => true
  | .opSetPoseSize _ => true
  | .opLoadPose _ _ => true
  | .opLoadSeq _ => true
  | .opPlay => true
  | .opLoop => true
  | .haltByte => false
  | .openPort _ _ _ => false
  | .writeRaw _ => false
  | .readByte => false
  | .flushInput => false
  | .execute _ _ _ => false
  | .getRegister _ _ _ => false
  | .setRegister _ _ _ => false
  | .syncWrite _ _ => false
  | .setPoseSize _ => false
  | .uploadPose _ _ => false
  | .uploadSequence _ => false
  | .play => false
  | .loop => false
  | .halt => false
  | .download _ _ _ _ => false

/-- A status packet (R46) whose checksum byte is `ck`. -/
def statusFrame (id err : Byte) (params : List Byte) (ck : Byte) : List Byte :=
  [headerByte, headerByte, id, lengthByte params, err] ++ params ++ [ck]

/-- The exact sum that R51 tests. -/
def frameSum (id err : Byte) (params : List Byte) (ck : Byte) : Nat :=
  id.toNat + (params.length + 2) + err.toNat + byteSum params + ck.toNat

/-- A status packet the decoder accepts: a source id other than 0xFF, at most 253 parameters, and R51. -/
def ValidFrame (id err : Byte) (params : List Byte) (ck : Byte) : Prop :=
  id ≠ 0xFF ∧ params.length ≤ 253 ∧ frameSum id err params ck % 256 = 255

/-- `n` steps of the one command `i`, with nothing happening outside the block between them. -/
def execTimes : Nat → Instr → State → Out
  | 0, _, s => .next s
  | n + 1, i, s =>
    match exec i s with
    | .next t => execTimes n i t
    | .fault r => .fault r
    | .refused r => .refused r

/-- The outcome of a step with the command `a` in PHASE called `b` instead: PHASE shows the host only ready or busy (R28; log 8). -/
def relabel (a b : Instr) (o : Out) : Out :=
  match o with
  | .next t =>
    match t.phase with
    | .busy c st => .next (if c = a then { t with phase := .busy b st } else t)
    | .idle => .next t
  | .fault r => .fault r
  | .refused r => .refused r

/-- What the host observes (R28). -/
structure Observed where
  busy      : Bool
  result    : Result
  conn      : Conn
  lastError : Option Byte
  txs       : List Byte
deriving DecidableEq, Repr

/-- What the host observes of a state (R28). -/
def observe (s : State) : Observed where
  busy      := s.phase != .idle
  result    := s.result
  conn      := s.conn
  lastError := s.lastError
  txs       := s.txs

/-- `t` differs from `s` in nothing that is not the block's: the configuration, the draws, the host's program and its procedure. -/
def SameOutside (s t : State) : Prop :=
  t.cfg = s.cfg ∧ t.timerFires = s.timerFires ∧ t.connectOk = s.connectOk ∧ t.interject = s.interject ∧
    t.draws = s.draws ∧ t.tick = s.tick ∧ t.hostQ = s.hostQ ∧ t.proc = s.proc ∧ t.report = s.report ∧ t.rst = s.rst

/-! ### Runs and the fairness of the Timer -/

/-- An infinite run: each state steps to the one after it. -/
def IsRun (r : Nat → State) : Prop := ∀ n, step (r n) = .next (r (n + 1))

/-- The command in progress is at its `RxRead`: an exchange in its decode (R82), or READ_BYTE in its read (R73). -/
def reading (s : State) : Bool :=
  match s.phase with
  | .idle => false
  | .busy _ .validate => false
  | .busy _ .connect => false
  | .busy _ .flush => false
  | .busy _ .send => false
  | .busy i .read => i == .readByte
  | .busy i .decode => exchanges i
  | .busy _ (.finish _ _) => false

/-- The step from `s` takes an `RxRead` that finds RXQ empty, after the bus's bytes of that step: what enables the Timer (R25, R69). -/
def readsEmpty (s : State) : Bool := !s.rst && reading s && (sample s).rxq.isEmpty

/-- Weak fairness of the Timer (R155, decision D13): if from some step on an `RxRead` holds with RXQ empty forever, the Timer fires in one of those
steps. The model's only liveness assumption: the step does not force it, and a claim that a read ends takes it as a hypothesis on the
run (log 18). -/
def TimerFair (r : Nat → State) : Prop :=
  ∀ n, (∀ k, n ≤ k → readsEmpty (r k) = true) → ∃ k, n ≤ k ∧ (sample (r k)).timerFires = true

/-- The line stays silent, and no reset is applied, for as long as the read that the run is at in step `n` goes on. -/
def SilentFrom (r : Nat → State) (n : Nat) : Prop :=
  ∀ k, n ≤ k → (∀ j, n ≤ j → j ≤ k → (r j).phase = (r n).phase) → (r k).rst = false ∧ (currentDraw (r k)).bus = []

/-! ### The invariant -/

/-- The steps a command's rule lists (R10, R14, R29), with what its finish step holds. -/
def hasStep (i : Instr) (st : CmdStep) : Bool :=
  match st with
  | .validate => !isDownload i
  | .connect => isOpen i
  | .flush => exchanges i || i == .flushInput
  | .send => exchanges i || transmits i
  | .read => i == .readByte
  | .decode => exchanges i
  | .finish e ps =>
    if exchanges i then e.isSome && decide (ps.length ≤ 253)
    else if i = .readByte then e.isNone && ps.length == 1
    else !isDownload i && e.isNone && ps.isEmpty

/-- The decoder's registers while a decode runs (R16, R17, R98): every register a later rule reads has been written, and READ_PARAMS and
READ_CHECKSUM are where the length says. -/
def decoderOk (d : Decoder) : Bool :=
  match d.dstate with
  | .seekHeader1 => true
  | .seekHeader2 => true
  | .readId => true
  | .readLength => d.rid.isSome && d.rid != some 0xFF
  | .readError => d.rid.isSome && d.rid != some 0xFF && d.rlen.isSome
  | .readParams =>
    d.rid.isSome && d.rid != some 0xFF && d.rerr.isSome &&
      match d.rlen with
      | none => false
      | some l => decide (l.toNat < 2) || decide (d.pbuf.length + 2 < l.toNat)
  | .readChecksum =>
    d.rid.isSome && d.rid != some 0xFF && d.rerr.isSome &&
      match d.rlen with
      | none => false
      | some l => decide (2 ≤ l.toNat) && decide (d.pbuf.length + 2 = l.toNat)

/-- PHASE is IDLE, or BUSY at a step the command's rule lists, past its validation only with arguments that passed it and, but for OPEN, with
the connection open. -/
def phaseOk (s : State) : Bool :=
  match s.phase with
  | .idle => true
  | .busy i st =>
    hasStep i st && (st == .validate || (argsOk s.cfg i && (isOpen i || s.conn.opened))) &&
      (st != .decode || decoderOk s.dec)

/-- The machine's invariant: PHASE is legal; PBUF is within its capacity (R17); nothing waits in RXQ while the connection is closed (R27, R71);
and a running DOWNLOAD has only exchanges still to run (R118). -/
structure LegalState (s : State) : Prop where
  phase  : phaseOk s = true
  pbuf   : s.dec.pbuf.length ≤ pbufCap
  closed : s.conn.opened = false → s.rxq = []
  todo   : ∀ p, s.proc = some p → p.todo.all exchanges = true

end Sys2Proof.Machine
end

