-- ==== Sys2Proof/Certificates/Slice0/Obligations.lean ====
section
/-! DEFINITION. The statements for the provers. Each docstring names the rule of spec/ it formalises; where a clause rests on a choice of the
model, the docstring names the log entry. -/

open Sys2Proof Sys2Proof.Machine Sys2Proof.Config

/-! ### Reset -/

/-- R139: the table of reset values (0.5 s is 500000 µs, log 13), for every configuration, at instantiation and when the reset input is up; reset does not change the
configuration. -/
def Obligations.ResetGivesTheSpecsValues : Prop :=
  (∀ c : Params,
    (State.resetWith c).conn = { opened := false, port := none, baud := 1000000, timeout := 500000 } ∧
    (State.resetWith c).phase = .idle ∧
    (State.resetWith c).dec = { dstate := .seekHeader1, rid := none, rlen := none, rerr := none, pbuf := [] } ∧
    (State.resetWith c).lastError = none ∧
    (State.resetWith c).result = { status := none, err := none, data := .bottom } ∧
    (State.resetWith c).rxq = [] ∧ (State.resetWith c).txs = [] ∧ (State.resetWith c).cfg = c) ∧
  ∀ s : State, s.rst = true → ∃ t, step s = .next t ∧
    t.conn = { opened := false, port := none, baud := 1000000, timeout := 500000 } ∧ t.phase = .idle ∧
    t.dec = { dstate := .seekHeader1, rid := none, rlen := none, rerr := none, pbuf := [] } ∧
    t.lastError = none ∧ t.result = { status := none, err := none, data := .bottom } ∧
    t.rxq = [] ∧ t.txs = [] ∧ t.cfg = s.cfg

/-! ### The step -/

/-- R10, R14, R22, R141, log 10: a step takes the draws and then runs the next step of the command in progress; with the block IDLE and no DOWNLOAD
running it runs the instruction that the host's next request decodes to; with no request it does nothing more. -/
def Obligations.StepRunsTheDecodedInstruction : Prop :=
  (∀ (s : State) (r : Request) (rest : List Request) (i : Instr), s.rst = false → s.phase = .idle → s.proc = none →
    s.hostQ = r :: rest → decode s.cfg r = .instr i → step s = exec i { sample s with hostQ := rest }) ∧
  (∀ (s : State) (i : Instr) (st : CmdStep), s.rst = false → s.phase = .busy i st → step s = exec i (sample s)) ∧
  (∀ s : State, s.rst = false → s.phase = .idle → s.proc = none → s.hostQ = [] → step s = .next (sample s))

/-- R118, R113, R123, log 11: with the block IDLE, a running DOWNLOAD goes on, unless the host uses the moment between two of its commands for a
halt. -/
def Obligations.StepRunsTheDownloadOrAHaltBetweenItsCommands : Prop :=
  ∀ (s : State) (p : Proc), s.rst = false → s.phase = .idle → s.proc = some p →
    ((p.waiting = true ∨ (sample s).interject = false ∨ haltRequested s = false) →
      step s = exec (.download p.transitions p.poses p.count p.mode) (sample s)) ∧
    (∀ (r : Request) (rest : List Request) (i : Instr), p.waiting = false → (sample s).interject = true →
      s.hostQ = r :: rest → decode s.cfg r = .instr i → isHalt i = true →
      step s = exec i { sample s with hostQ := rest })

/-- R24, R27, log 1: before the block's atomic step the bus appends its bytes at RXQ's tail if the connection is open and nothing if it is closed; no other
register of the block changes. Log 2: the draw is the next one the state names, or the free value. -/
def Obligations.BusAppendsOnlyWhileOpen : Prop :=
  ∀ s : State,
    (s.conn.opened = true → (sample s).rxq = s.rxq ++ (currentDraw s).bus) ∧
    (s.conn.opened = false → (sample s).rxq = s.rxq) ∧
    (sample s).conn = s.conn ∧ (sample s).phase = s.phase ∧ (sample s).dec = s.dec ∧ (sample s).result = s.result ∧
    (sample s).lastError = s.lastError ∧ (sample s).txs = s.txs ∧ (sample s).cfg = s.cfg

/-- R66: the eight tags (a record's arguments in their lanes, log 4), and a record with any other tag finishes with INVALID_ARGUMENT and no bus
activity. That it does so in one step out of IDLE is a choice of the model (log 20). -/
def Obligations.CommandTagsAndUnknownTags : Prop :=
  (∀ (c : Params) (a : Args),
    decode c (.record 0x01 a) = .instr (.openPort a.port a.baud a.timeout) ∧
    decode c (.record 0x02 a) = .instr (.writeRaw a.bytes) ∧
    decode c (.record 0x03 a) = .instr .readByte ∧
    decode c (.record 0x04 a) = .instr .flushInput ∧
    decode c (.record 0x10 a) = .instr (.execute a.id a.instr a.bytes) ∧
    decode c (.record 0x11 a) = .instr (.getRegister a.id a.start a.count) ∧
    decode c (.record 0x12 a) = .instr (.setRegister a.id a.start a.bytes) ∧
    decode c (.record 0x13 a) = .instr (.syncWrite a.start a.rows)) ∧
  ∀ (s : State) (tag : Byte) (a : Args) (rest : List Request),
    tag ∉ ([0x01, 0x02, 0x03, 0x04, 0x10, 0x11, 0x12, 0x13] : List Byte) →
    s.rst = false → s.phase = .idle → s.proc = none → s.hostQ = .record tag a :: rest →
    step s = .next { sample s with
      hostQ := rest, phase := .idle
      result := { status := some .invalidArgument, err := none, data := .bottom } }

/-- R22, R23: a command is accepted when the block is IDLE, with RESULT unchanged until the command's finish; one offered while another is in
progress has no move (log 14). -/
def Obligations.CommandsAreAcceptedOnlyWhenIdle : Prop :=
  (∀ (i : Instr) (s : State), isDownload i = false → s.phase = .idle →
    exec i s = .next { s with phase := .busy i .validate }) ∧
  (∀ (i c : Instr) (st : CmdStep) (s : State), s.phase = .busy c st → c ≠ i → exec i s = .refused .commandWhileBusy) ∧
  (∀ (i : Instr) (s t : State), exec i s = .next t → t.phase ≠ .idle → t.result = s.result)

/-! ### Encodings -/

/-- R45, R47, R54, R66: requests written out from the encodings, in the default configuration, decode to the instructions they stand for (the packets
and bytes of 95_test_vectors.md). That a packet is read as an OP_* instruction, or as EXECUTE where no row names it, is a choice of the model (log 5);
so are the raw byte's reading as HALT_BYTE (log 6) and the rejection of a packet with a wrong checksum by name (log 17). -/
def Obligations.WrittenOutWordsDecode : Prop :=
  decode Params.default (.packet [0xFF, 0xFF, 0x01, 0x04, 0x02, 0x2B, 0x01, 0xCC]) = .instr (.opReadData 1 0x2B 1) ∧
  decode Params.default (.packet [0xFF, 0xFF, 0x01, 0x05, 0x03, 0x1E, 0x00, 0x02, 0xD6]) = .instr (.opWriteData 1 0x1E [0, 2]) ∧
  decode Params.default (.packet [0xFF, 0xFF, 0xFE, 0x0A, 0x83, 0x1E, 0x01, 0x01, 0x10, 0x02, 0x20, 0x03, 0x30, 0xEF]) =
    .instr (.opSyncWrite 0x1E 1 [1, 0x10, 2, 0x20, 3, 0x30]) ∧
  decode Params.default (.packet [0xFF, 0xFF, 0xFD, 0x02, 0x0A, 0xF6]) = .instr .opPlay ∧
  decode Params.default (.packet [0xFF, 0xFF, 0x01, 0x02, 0x01, 0xFB]) = .instr (.execute 1 1 []) ∧
  decode Params.default (.packet [0xFF, 0xFF, 0xFD, 0x02, 0x0A, 0xF7]) = .malformed .badChecksum ∧
  decode Params.default (.raw 0x48) = .instr .haltByte ∧
  decode Params.default (.record 0x11 { id := 1, start := 0x2B, count := 1 }) = .instr (.getRegister 1 0x2B 1)

/-- Decode and encode agree (R45 to R58, R66, R67; log 4, 5). In every configuration whose eight opcodes differ: every well-formed instruction,
with every operand at every value its encoding admits. In every configuration, with equal opcodes too: every instruction that is not
handed over as packet bytes, with any operands; and the bytes of a well-formed instruction packet are read as an instruction that stands for the
same target id, opcode and parameters. Which of the rows with equal opcodes that is, is a choice of the model (log 21). -/
def Obligations.DecodeOfEncodeIsTheInstruction : Prop :=
  ∀ (c : Params) (i : Instr),
    (c.distinct → i.wellFormed c = true → decode c (encode c i) = .instr i) ∧
    (framed i = false → decode c (encode c i) = .instr i) ∧
    (framed i = true → i.wellFormed c = true → ∃ j, decode c (encode c i) = .instr j ∧ packetOf c j = packetOf c i)

/-- R45, R48, R49, R50, R80: the bytes of an instruction packet, offset by offset, and the checksum invariant: from the id to the checksum they add
up to 255 modulo 256. -/
def Obligations.PacketLayoutAndChecksum : Prop :=
  ∀ (id op : Byte) (ps : List Byte), ps.length ≤ 253 →
    (packet id op ps).length = ps.length + 6 ∧
    (packet id op ps)[0]? = some 0xFF ∧ (packet id op ps)[1]? = some 0xFF ∧ (packet id op ps)[2]? = some id ∧
    (∃ l : Byte, (packet id op ps)[3]? = some l ∧ l.toNat = ps.length + 2 ∧ 2 ≤ l.toNat ∧ l.toNat ≤ 255 ∧
      (packet id op ps).length = l.toNat + 4) ∧
    (packet id op ps)[4]? = some op ∧ (∀ k, k < ps.length → (packet id op ps)[5 + k]? = ps[k]?) ∧
    ∃ ck : Byte, (packet id op ps)[5 + ps.length]? = some ck ∧
      ck.toNat = 255 - (id.toNat + (ps.length + 2) + op.toNat + byteSum ps) % 256 ∧
      (id.toNat + (ps.length + 2) + op.toNat + byteSum ps + ck.toNat) % 256 = 255

/-- R79: what is encodable, and a command that would encode a packet that is not finishes with INVALID_ARGUMENT before any flush or
transmission. -/
def Obligations.NonEncodablePacketsAreRefused : Prop :=
  (∀ (id : Byte) (ps : List Byte), encodable id ps = true ↔ (1 ≤ id.toNat ∧ id.toNat ≤ 254) ∧ ps.length ≤ 253) ∧
  ∀ (s : State) (i : Instr) (id op : Byte) (ps : List Byte), packetOf s.cfg i = some (id, op, ps) →
    encodable id ps = false → s.phase = .busy i .validate →
    ∃ r : Result, r.status = some .invalidArgument ∧ exec i s = .next { s with result := r, phase := .idle }

/-- R54 to R58, R67: the bytes an instruction's send step puts on the line are the packet of its target, opcode and parameters; the halt byte and a
raw write are sent as they are (R47, R72). -/
def Obligations.SentBytesAreTheInstructionsPacket : Prop :=
  ∀ (c : Params) (i : Instr),
    (∀ (id op : Byte) (ps : List Byte), packetOf c i = some (id, op, ps) → sent c i = packet id op ps) ∧
    (packetOf c i = none → transmits i = true → sent c i = [0x48] ∨ ∃ bs, i = .writeRaw bs ∧ sent c i = bs)

/-! ### The decoder -/

/-- R83, R84, R85, R86: the header search, the id byte (a 0xFF is consumed and rejected) and the length byte, for every instruction that reads an
answer. -/
def Obligations.DecoderFindsTheHeaderIdAndLength : Prop :=
  ∀ (s : State) (i : Instr) (b : Byte) (rest : List Byte), exchanges i = true → s.phase = .busy i .decode → s.rxq = b :: rest →
    (s.dec.dstate = .seekHeader1 → exec i s = .next { s with
      rxq := rest, dec := { s.dec with dstate := if b = 0xFF then .seekHeader2 else .seekHeader1 } }) ∧
    (s.dec.dstate = .seekHeader2 → exec i s = .next { s with
      rxq := rest, dec := { s.dec with dstate := if b = 0xFF then .readId else .seekHeader1 } }) ∧
    (s.dec.dstate = .readId → b ≠ 0xFF → exec i s = .next { s with
      rxq := rest, dec := { s.dec with rid := some b, dstate := .readLength } }) ∧
    (s.dec.dstate = .readId → b = 0xFF → exec i s = .next { s with
      rxq := rest, dec := { s.dec with dstate := .seekHeader1 } }) ∧
    (s.dec.dstate = .readLength → exec i s = .next { s with
      rxq := rest, dec := { s.dec with rlen := some b, dstate := .readError } })

/-- R87: the error byte is latched in LAST_ERROR the moment it is read. -/
def Obligations.DecoderLatchesTheErrorByte : Prop :=
  ∀ (s : State) (i : Instr) (b l : Byte) (rest : List Byte), exchanges i = true → s.phase = .busy i .decode → s.rxq = b :: rest →
    s.dec.dstate = .readError → s.dec.rlen = some l →
    exec i s = .next { s with
      rxq := rest, lastError := some b
      dec := { s.dec with rerr := some b, pbuf := [], dstate := if l.toNat = 2 then .readChecksum else .readParams } }

/-- R88: a parameter byte is added while PBUF is below its capacity, and READ_CHECKSUM follows when PBUF holds RLEN − 2 bytes, compared as
integers. -/
def Obligations.DecoderCollectsTheParameters : Prop :=
  ∀ (s : State) (i : Instr) (b l : Byte) (rest : List Byte), exchanges i = true → s.phase = .busy i .decode → s.rxq = b :: rest →
    s.dec.dstate = .readParams → s.dec.rlen = some l →
    ∃ pb : List Byte, pb = (if s.dec.pbuf.length < 253 then s.dec.pbuf ++ [b] else s.dec.pbuf) ∧
      exec i s = .next { s with
        rxq := rest
        dec := { s.dec with pbuf := pb, dstate := if (pb.length : Int) = (l.toNat : Int) - 2 then .readChecksum else .readParams } }

/-- R89, R92: the checksum test. Success hands the error byte and the parameters to the command; a failure ends it with CHECKSUM_ERROR and returns
no byte. Either way the bytes after the checksum stay in RXQ. -/
def Obligations.DecoderTestsTheChecksum : Prop :=
  ∀ (s : State) (i : Instr) (b id l e : Byte) (rest : List Byte), exchanges i = true → s.phase = .busy i .decode → s.rxq = b :: rest →
    s.dec.dstate = .readChecksum → s.dec.rid = some id → s.dec.rlen = some l → s.dec.rerr = some e →
    ((id.toNat + l.toNat + e.toNat + byteSum s.dec.pbuf + b.toNat) % 256 = 255 →
      exec i s = .next { s with rxq := rest, phase := .busy i (.finish (some e) s.dec.pbuf) }) ∧
    ((id.toNat + l.toNat + e.toNat + byteSum s.dec.pbuf + b.toNat) % 256 ≠ 255 →
      ∃ r : Result, r.status = some .checksumError ∧ (r.data = .bottom ∨ r.data = .fail) ∧
        exec i s = .next { s with rxq := rest, result := r, phase := .idle })

/-- R90: a timeout in any decoder state ends the decode with READ_TIMEOUT; no byte is returned, and what the decode wrote stays, LAST_ERROR among
it. -/
def Obligations.TimeoutEndsTheDecode : Prop :=
  ∀ (s : State) (i : Instr), exchanges i = true → s.phase = .busy i .decode → s.rxq = [] → s.timerFires = true →
    ∃ r : Result, r.status = some .readTimeout ∧ (r.data = .bottom ∨ r.data = .fail) ∧
      exec i s = .next { s with result := r, phase := .idle }

/-- R69, R25: a read with a byte waiting takes it whether or not the Timer could fire; with none waiting and the Timer not fired it holds, changing
nothing. -/
def Obligations.ReadsTakeAByteOrHold : Prop :=
  ∀ (s : State) (i : Instr), (exchanges i = true ∧ s.phase = .busy i .decode) ∨ (i = .readByte ∧ s.phase = .busy i .read) →
    (s.rxq = [] → s.timerFires = false → exec i s = .next s) ∧
    (∀ (b : Byte) (rest : List Byte) (t : State), s.rxq = b :: rest → exec i s = .next t →
      t.rxq = rest ∧ (t.phase = .idle → t.result.status ≠ some .readTimeout))

/-- R94: stray bytes before the header, and a prefix FF x, do not prevent the decoding of the frame that follows. -/
def Obligations.DecoderResynchronisesAtTheHeader : Prop :=
  ∀ (d : Decoder) (id e ck : Byte) (ps rest : List Byte), d.dstate = .seekHeader1 → ValidFrame id e ps ck →
    (∀ noise : List Byte, (∀ b ∈ noise, b ≠ 0xFF) →
      ∃ d', feed d (noise ++ statusFrame id e ps ck ++ rest) = .success e ps d' rest) ∧
    (∀ x : Byte, x ≠ 0xFF → ∃ d', feed d (0xFF :: x :: (statusFrame id e ps ck ++ rest)) = .success e ps d' rest)

/-- R95: where the decoder stands after n header bytes, and that it then reads a frame's id iff n mod 3 = 2. -/
def Obligations.LeadingHeaderBytesCountModuloThree : Prop :=
  ∀ (d : Decoder) (n : Nat) (id : Byte), d.dstate = .seekHeader1 → id ≠ 0xFF →
    (n % 3 = 0 → feed d (List.replicate n 0xFF) = .running { d with dstate := .seekHeader1 }) ∧
    (n % 3 = 1 → feed d (List.replicate n 0xFF) = .running { d with dstate := .seekHeader2 }) ∧
    (n % 3 = 2 → feed d (List.replicate n 0xFF) = .running { d with dstate := .readId }) ∧
    (n % 3 = 2 → feed d (List.replicate n 0xFF ++ [id]) = .running { d with dstate := .readLength, rid := some id }) ∧
    (n % 3 ≠ 2 → feed d (List.replicate n 0xFF ++ [id]) = .running { d with dstate := .seekHeader1 })

/-- R96: the round trip through the block: an instruction that reads an answer and receives exactly the bytes of an encoded packet ends its decode
with that packet's opcode as the error byte and its parameters. -/
def Obligations.RoundTripThroughTheDecoder : Prop :=
  ∀ (s : State) (i : Instr) (id op : Byte) (ps : List Byte), exchanges i = true → s.phase = .busy i .decode →
    s.dec.dstate = .seekHeader1 → encodable id ps = true → s.rxq = packet id op ps →
    ∃ t, execTimes (ps.length + 6) i s = .next t ∧ t.phase = .busy i (.finish (some op) ps) ∧
      t.dec.rid = some id ∧ (∃ l : Byte, t.dec.rlen = some l ∧ l.toNat = ps.length + 2) ∧
      t.lastError = some op ∧ t.rxq = [] ∧ t.txs = s.txs

/-- R97: a valid frame with its checksum byte, its error byte or one parameter byte replaced by another value ends the decode with
CHECKSUM_ERROR. -/
def Obligations.CorruptedFramesAreDetected : Prop :=
  ∀ (d : Decoder) (id e ck : Byte) (ps rest : List Byte), d.dstate = .seekHeader1 → ValidFrame id e ps ck →
    (∀ ck' : Byte, ck' ≠ ck → ∃ d', feed d (statusFrame id e ps ck' ++ rest) = .checksumError d' rest) ∧
    (∀ e' : Byte, e' ≠ e → ∃ d', feed d (statusFrame id e' ps ck ++ rest) = .checksumError d' rest) ∧
    (∀ (k : Nat) (v b : Byte), ps[k]? = some v → b ≠ v →
      ∃ d', feed d (statusFrame id e (ps.set k b) ck ++ rest) = .checksumError d' rest)

/-- R98: at every entry to READ_CHECKSUM, RLEN ≥ 2 and |PBUF| = RLEN − 2. -/
def Obligations.ChecksumStateHoldsTheDeclaredLength : Prop :=
  ∀ (d d' : Decoder) (b : Byte), decoderByte d b = .more d' → d'.dstate = .readChecksum →
    ∃ l : Byte, d'.rlen = some l ∧ 2 ≤ l.toNat ∧ d'.pbuf.length = l.toNat - 2

/-- R16: what an earlier decode left in the decoder's registers changes nothing of a decode that starts in SEEK_HEADER1: not its outcome, not the
bytes it consumes, and it never meets ⊥. -/
def Obligations.StaleDecoderRegistersAreNeverRead : Prop :=
  ∀ (d d' : Decoder) (bs : List Byte), d.dstate = .seekHeader1 → d'.dstate = .seekHeader1 →
    match feed d bs, feed d' bs with
    | .running a, .running b => a.dstate = b.dstate
    | .success e ps _ rest, .success e' ps' _ rest' => e = e' ∧ ps = ps' ∧ rest = rest'
    | .checksumError _ rest, .checksumError _ rest' => rest = rest'
    | _, _ => False

/-- R88, R149: with a length of 0 or 1 the decoder consumes every byte and no byte ends the decode. -/
def Obligations.ShortLengthsNeverComplete : Prop :=
  ∀ (d : Decoder) (l : Byte) (bs : List Byte), d.dstate = .readParams → d.rlen = some l → l.toNat < 2 →
    ∃ d', feed d bs = .running d' ∧ d'.dstate = .readParams ∧ d'.rlen = some l

/-! ### Transport commands -/

/-- R71: OPEN's steps, with omitted fields at their defaults, on both outcomes of CONNECT. Which step takes the draw is log 9. -/
def Obligations.OpenValidatesConnectsAndFinishes : Prop :=
  ∀ (s : State) (port : Port) (baud timeout : Option Nat),
    ((baud.getD 1000000 = 0 ∨ timeout.getD 500000 = 0) → s.phase = .busy (.openPort port baud timeout) .validate →
      exec (.openPort port baud timeout) s = .next { s with
        result := { status := some .invalidArgument, err := none, data := .bottom }, phase := .idle }) ∧
    (baud.getD 1000000 ≠ 0 → timeout.getD 500000 ≠ 0 → s.phase = .busy (.openPort port baud timeout) .validate →
      exec (.openPort port baud timeout) s = .next { s with phase := .busy (.openPort port baud timeout) .connect }) ∧
    (s.phase = .busy (.openPort port baud timeout) .connect → s.connectOk = false →
      exec (.openPort port baud timeout) s = .next { s with
        rxq := [], conn := { s.conn with opened := false, port := none }
        result := { status := some .connectionError, err := none, data := .bottom }, phase := .idle }) ∧
    (s.phase = .busy (.openPort port baud timeout) .connect → s.connectOk = true →
      exec (.openPort port baud timeout) s = .next { s with
        rxq := [], phase := .busy (.openPort port baud timeout) (.finish none []) }) ∧
    (s.phase = .busy (.openPort port baud timeout) (.finish none []) →
      exec (.openPort port baud timeout) s = .next { s with
        conn := { opened := true, port := some port, baud := baud.getD 1000000, timeout := timeout.getD 500000 }
        result := { status := some .ok, err := none, data := .bottom }, phase := .idle }) ∧
    (s.phase = .idle → baud.getD 1000000 ≠ 0 → timeout.getD 500000 ≠ 0 → s.connectOk = true →
      execTimes 4 (.openPort port baud timeout) s = .next { s with
        rxq := [], conn := { opened := true, port := some port, baud := baud.getD 1000000, timeout := timeout.getD 500000 }
        result := { status := some .ok, err := none, data := .bottom } })

/-- R72: WRITE_RAW's steps; its bytes are sent as given, and nothing else changes. -/
def Obligations.WriteRawSendsItsBytes : Prop :=
  ∀ (s : State) (bs : List Byte),
    (s.phase = .busy (.writeRaw bs) .validate → s.conn.opened = false → exec (.writeRaw bs) s = .next { s with
      result := { status := some .connectionError, err := none, data := .bottom }, phase := .idle }) ∧
    (s.phase = .busy (.writeRaw bs) .validate → s.conn.opened = true → exec (.writeRaw bs) s = .next { s with
      phase := .busy (.writeRaw bs) .send }) ∧
    (s.phase = .busy (.writeRaw bs) .send → exec (.writeRaw bs) s = .next { s with
      txs := s.txs ++ bs, phase := .busy (.writeRaw bs) (.finish none []) }) ∧
    (s.phase = .busy (.writeRaw bs) (.finish none []) → exec (.writeRaw bs) s = .next { s with
      result := { status := some .ok, err := none, data := .bottom }, phase := .idle })

/-- R73: READ_BYTE's steps: the oldest byte, or READ_TIMEOUT. -/
def Obligations.ReadByteReturnsTheOldestByte : Prop :=
  ∀ s : State,
    (s.phase = .busy .readByte .validate → s.conn.opened = false → exec .readByte s = .next { s with
      result := { status := some .connectionError, err := none, data := .bottom }, phase := .idle }) ∧
    (s.phase = .busy .readByte .validate → s.conn.opened = true → exec .readByte s = .next { s with
      phase := .busy .readByte .read }) ∧
    (∀ (b : Byte) (rest : List Byte), s.phase = .busy .readByte .read → s.rxq = b :: rest → exec .readByte s = .next { s with
      rxq := rest, phase := .busy .readByte (.finish none [b]) }) ∧
    (s.phase = .busy .readByte .read → s.rxq = [] → s.timerFires = true → exec .readByte s = .next { s with
      result := { status := some .readTimeout, err := none, data := .bottom }, phase := .idle }) ∧
    (∀ b : Byte, s.phase = .busy .readByte (.finish none [b]) → exec .readByte s = .next { s with
      result := { status := some .ok, err := none, data := .byte b }, phase := .idle }) ∧
    (∀ (b : Byte) (rest : List Byte), s.phase = .idle → s.conn.opened = true → s.rxq = b :: rest →
      execTimes 4 .readByte s = .next { s with
        rxq := rest, result := { status := some .ok, err := none, data := .byte b } })

/-- R74, R70: FLUSH_INPUT's steps: RXQ is emptied. -/
def Obligations.FlushInputEmptiesTheQueue : Prop :=
  ∀ s : State,
    (s.phase = .busy .flushInput .validate → s.conn.opened = false → exec .flushInput s = .next { s with
      result := { status := some .connectionError, err := none, data := .bottom }, phase := .idle }) ∧
    (s.phase = .busy .flushInput .validate → s.conn.opened = true → exec .flushInput s = .next { s with
      phase := .busy .flushInput .flush }) ∧
    (s.phase = .busy .flushInput .flush → exec .flushInput s = .next { s with
      rxq := [], phase := .busy .flushInput (.finish none []) }) ∧
    (s.phase = .busy .flushInput (.finish none []) → exec .flushInput s = .next { s with
      result := { status := some .ok, err := none, data := .bottom }, phase := .idle }) ∧
    (s.phase = .idle → s.conn.opened = true → execTimes 4 .flushInput s = .next { s with
      rxq := [], result := { status := some .ok, err := none, data := .bottom } })

/-- R75, R127: a failed argument check ends a command with INVALID_ARGUMENT whatever the connection is; after its argument checks, every command
other than OPEN finishes with CONNECTION_ERROR while the connection is closed; neither has any other effect. DOWNLOAD is no command of the
block (R67). -/
def Obligations.ArgumentsAreCheckedThenTheConnection : Prop :=
  ∀ (s : State) (i : Instr), isDownload i = false → s.phase = .busy i .validate →
    (argsOk s.cfg i = false →
      ∃ r : Result, r.status = some .invalidArgument ∧ exec i s = .next { s with result := r, phase := .idle }) ∧
    (argsOk s.cfg i = true → isOpen i = false → s.conn.opened = false →
      ∃ r : Result, r.status = some .connectionError ∧ exec i s = .next { s with result := r, phase := .idle })

/-! ### Instructions that send a packet -/

/-- R99, R42, R82, R54; that the packets OP_READ_DATA to OP_LOOP run so is a choice of the model (log 5): an exchange whose arguments and connection are in order flushes RXQ, sends its packet whole and starts its decode in SEEK_HEADER1;
each of these steps changes nothing else. -/
def Obligations.ExchangesFlushThenSendThenDecode : Prop :=
  ∀ (s : State) (i : Instr), exchanges i = true →
    (s.phase = .busy i .validate → argsOk s.cfg i = true → s.conn.opened = true →
      exec i s = .next { s with phase := .busy i .flush }) ∧
    (s.phase = .busy i .flush → exec i s = .next { s with rxq := [], phase := .busy i .send }) ∧
    (s.phase = .busy i .send → exec i s = .next { s with
      txs := s.txs ++ sent s.cfg i, dec := { s.dec with dstate := .seekHeader1 }, phase := .busy i .decode }) ∧
    (s.phase = .idle → argsOk s.cfg i = true → s.conn.opened = true →
      execTimes 4 i s = .next { s with
        rxq := [], txs := s.txs ++ sent s.cfg i, dec := { s.dec with dstate := .seekHeader1 }, phase := .busy i .decode })

/-- R99: EXECUTE: its check, its connection, its flush, its packet, its decode in SEEK_HEADER1 (R82 to R90) and its finish for each outcome. -/
def Obligations.ExecuteRunsItsSteps : Prop :=
  ∀ (s : State) (id op : Byte) (params : List Byte),
    (s.phase = .busy (.execute id op params) .validate → (id = 0 ∨ id = 255 ∨ 253 < params.length) →
      exec (.execute id op params) s = .next { s with
        result := { status := some .invalidArgument, err := none, data := .bottom }, phase := .idle }) ∧
    (s.phase = .busy (.execute id op params) .validate → id ≠ 0 → id ≠ 255 → params.length ≤ 253 →
      (s.conn.opened = false → exec (.execute id op params) s = .next { s with
        result := { status := some .connectionError, err := none, data := .bottom }, phase := .idle }) ∧
      (s.conn.opened = true → exec (.execute id op params) s = .next { s with phase := .busy (.execute id op params) .flush })) ∧
    (s.phase = .busy (.execute id op params) .flush → exec (.execute id op params) s = .next { s with
      rxq := [], phase := .busy (.execute id op params) .send }) ∧
    (s.phase = .busy (.execute id op params) .send → exec (.execute id op params) s = .next { s with
      txs := s.txs ++ packet id op params, dec := { s.dec with dstate := .seekHeader1 }
      phase := .busy (.execute id op params) .decode }) ∧
    (∀ (b : Byte) (rest : List Byte), s.phase = .busy (.execute id op params) .decode → s.rxq = b :: rest →
      (∀ (e : Byte) (ps : List Byte), decoderByte s.dec b = .success e ps → exec (.execute id op params) s = .next { s with
        rxq := rest, phase := .busy (.execute id op params) (.finish (some e) ps) }) ∧
      (decoderByte s.dec b = .checksumError → exec (.execute id op params) s = .next { s with
        rxq := rest, result := { status := some .checksumError, err := none, data := .bottom }, phase := .idle })) ∧
    (s.phase = .busy (.execute id op params) .decode → s.rxq = [] → s.timerFires = true →
      exec (.execute id op params) s = .next { s with
        result := { status := some .readTimeout, err := none, data := .bottom }, phase := .idle }) ∧
    (∀ (e : Byte) (ps : List Byte), s.phase = .busy (.execute id op params) (.finish (some e) ps) →
      exec (.execute id op params) s = .next { s with
        result := { status := some .ok, err := some e, data := .bytes ps }, phase := .idle })

/-- R99, R18, R125, log 5: what EXECUTE, the packets with an answer and the controller pseudo-commands put into RESULT, on success and on every
failure. -/
def Obligations.ExecuteLikeInstructionsFinish : Prop :=
  ∀ (s : State) (i : Instr), executeLike i = true →
    (∀ (e : Byte) (ps : List Byte), s.phase = .busy i (.finish (some e) ps) → exec i s = .next { s with
      result := { status := some .ok, err := some e, data := .bytes ps }, phase := .idle }) ∧
    (s.phase = .busy i .decode → s.rxq = [] → s.timerFires = true → exec i s = .next { s with
      result := { status := some .readTimeout, err := none, data := .bottom }, phase := .idle }) ∧
    (∀ (b : Byte) (rest : List Byte), s.phase = .busy i .decode → s.rxq = b :: rest → decoderByte s.dec b = .checksumError →
      exec i s = .next { s with
        rxq := rest, result := { status := some .checksumError, err := none, data := .bottom }, phase := .idle }) ∧
    (s.phase = .busy i .validate → argsOk s.cfg i = true → s.conn.opened = false → exec i s = .next { s with
      result := { status := some .connectionError, err := none, data := .bottom }, phase := .idle }) ∧
    (s.phase = .busy i .validate → argsOk s.cfg i = false → exec i s = .next { s with
      result := { status := some .invalidArgument, err := none, data := .bottom }, phase := .idle })

/-- R101: GET_REGISTER runs EXECUTE's steps with READ_DATA and [start, count], and returns FAIL on any failure, the first parameter for a count of 1 (FAIL where there is
none), the parameters as they came for any other count. -/
def Obligations.GetRegisterReturnsTheValueOrFail : Prop :=
  ∀ (s : State) (id start count : Byte),
    (s.phase = .busy (.getRegister id start count) .validate → id ≠ 0 → id ≠ 255 → s.conn.opened = true →
      exec (.getRegister id start count) s = .next { s with phase := .busy (.getRegister id start count) .flush }) ∧
    (s.phase = .busy (.getRegister id start count) .flush → exec (.getRegister id start count) s = .next { s with
      rxq := [], phase := .busy (.getRegister id start count) .send }) ∧
    (s.phase = .busy (.getRegister id start count) .send → exec (.getRegister id start count) s = .next { s with
      txs := s.txs ++ packet id s.cfg.opReadData [start, count], dec := { s.dec with dstate := .seekHeader1 }
      phase := .busy (.getRegister id start count) .decode }) ∧
    (∀ (e v : Byte) (ps : List Byte), count = 1 → s.phase = .busy (.getRegister id start count) (.finish (some e) (v :: ps)) →
      exec (.getRegister id start count) s = .next { s with
        result := { status := some .ok, err := some e, data := .byte v }, phase := .idle }) ∧
    (∀ e : Byte, count = 1 → s.phase = .busy (.getRegister id start count) (.finish (some e) []) →
      exec (.getRegister id start count) s = .next { s with
        result := { status := some .ok, err := some e, data := .fail }, phase := .idle }) ∧
    (∀ (e : Byte) (ps : List Byte), count ≠ 1 → s.phase = .busy (.getRegister id start count) (.finish (some e) ps) →
      exec (.getRegister id start count) s = .next { s with
        result := { status := some .ok, err := some e, data := .bytes ps }, phase := .idle }) ∧
    (s.phase = .busy (.getRegister id start count) .decode → s.rxq = [] → s.timerFires = true →
      exec (.getRegister id start count) s = .next { s with
        result := { status := some .readTimeout, err := none, data := .fail }, phase := .idle }) ∧
    (∀ (b : Byte) (rest : List Byte), s.phase = .busy (.getRegister id start count) .decode → s.rxq = b :: rest →
      decoderByte s.dec b = .checksumError → exec (.getRegister id start count) s = .next { s with
        rxq := rest, result := { status := some .checksumError, err := none, data := .fail }, phase := .idle }) ∧
    (s.phase = .busy (.getRegister id start count) .validate → id ≠ 0 → id ≠ 255 → s.conn.opened = false →
      exec (.getRegister id start count) s = .next { s with
        result := { status := some .connectionError, err := none, data := .fail }, phase := .idle }) ∧
    (s.phase = .busy (.getRegister id start count) .validate → id = 0 ∨ id = 255 →
      exec (.getRegister id start count) s = .next { s with
        result := { status := some .invalidArgument, err := none, data := .fail }, phase := .idle })

/-- R102: SET_REGISTER runs EXECUTE's steps with WRITE_DATA and [start] ++ values, and, whatever its status, reports LAST_ERROR as it is at its finish. -/
def Obligations.SetRegisterReportsTheLatchedError : Prop :=
  ∀ (s : State) (id start : Byte) (vs : List Byte),
    (s.phase = .busy (.setRegister id start vs) .validate → id ≠ 0 → id ≠ 255 → vs.length ≤ 252 → s.conn.opened = true →
      exec (.setRegister id start vs) s = .next { s with phase := .busy (.setRegister id start vs) .flush }) ∧
    (s.phase = .busy (.setRegister id start vs) .flush → exec (.setRegister id start vs) s = .next { s with
      rxq := [], phase := .busy (.setRegister id start vs) .send }) ∧
    (s.phase = .busy (.setRegister id start vs) .send → exec (.setRegister id start vs) s = .next { s with
      txs := s.txs ++ packet id s.cfg.opWriteData ([start] ++ vs), dec := { s.dec with dstate := .seekHeader1 }
      phase := .busy (.setRegister id start vs) .decode }) ∧
    (∀ (e : Byte) (ps : List Byte), s.phase = .busy (.setRegister id start vs) (.finish (some e) ps) →
      exec (.setRegister id start vs) s = .next { s with
        result := { status := some .ok, err := s.lastError, data := .bottom }, phase := .idle }) ∧
    (s.phase = .busy (.setRegister id start vs) .decode → s.rxq = [] → s.timerFires = true →
      exec (.setRegister id start vs) s = .next { s with
        result := { status := some .readTimeout, err := s.lastError, data := .bottom }, phase := .idle }) ∧
    (∀ (b : Byte) (rest : List Byte), s.phase = .busy (.setRegister id start vs) .decode → s.rxq = b :: rest →
      decoderByte s.dec b = .checksumError → exec (.setRegister id start vs) s = .next { s with
        rxq := rest, result := { status := some .checksumError, err := s.lastError, data := .bottom }, phase := .idle }) ∧
    (s.phase = .busy (.setRegister id start vs) .validate → id ≠ 0 → id ≠ 255 → vs.length ≤ 252 → s.conn.opened = false →
      exec (.setRegister id start vs) s = .next { s with
        result := { status := some .connectionError, err := s.lastError, data := .bottom }, phase := .idle }) ∧
    (s.phase = .busy (.setRegister id start vs) .validate → id = 0 ∨ id = 255 ∨ 252 < vs.length →
      exec (.setRegister id start vs) s = .next { s with
        result := { status := some .invalidArgument, err := s.lastError, data := .bottom }, phase := .idle })

/-- R103: SYNC_WRITE's checks, its packet to the broadcast id, and its finish without a flush or a decode. -/
def Obligations.SyncWriteChecksItsRowsAndBroadcasts : Prop :=
  ∀ (s : State) (start : Byte) (rows : List (List Byte)),
    (s.phase = .busy (.syncWrite start rows) .validate →
      (rows = [] ∨ (∃ r ∈ rows, r.length = 0) ∨ (∃ r ∈ rows, r.length ≠ (rows.headD []).length) ∨ 253 < 2 + rows.flatten.length) →
      exec (.syncWrite start rows) s = .next { s with
        result := { status := some .invalidArgument, err := none, data := .bottom }, phase := .idle }) ∧
    (s.phase = .busy (.syncWrite start rows) .validate →
      rows ≠ [] → (∀ r ∈ rows, r.length ≠ 0 ∧ r.length = (rows.headD []).length) → 2 + rows.flatten.length ≤ 253 →
      (s.conn.opened = false → exec (.syncWrite start rows) s = .next { s with
        result := { status := some .connectionError, err := none, data := .bottom }, phase := .idle }) ∧
      (s.conn.opened = true → exec (.syncWrite start rows) s = .next { s with phase := .busy (.syncWrite start rows) .send })) ∧
    (s.phase = .busy (.syncWrite start rows) .send → exec (.syncWrite start rows) s = .next { s with
      txs := s.txs ++ packet 254 s.cfg.opSyncWrite ([start, lowByte ((rows.headD []).length - 1)] ++ rows.flatten)
      phase := .busy (.syncWrite start rows) (.finish none []) }) ∧
    (s.phase = .busy (.syncWrite start rows) (.finish none []) → exec (.syncWrite start rows) s = .next { s with
      result := { status := some .ok, err := none, data := .bottom }, phase := .idle })

/-- R104: the length and checksum of the packet SYNC_WRITE sends. -/
def Obligations.SyncWriteLengthAndChecksum : Prop :=
  ∀ (c : Params) (start : Byte) (rows : List (List Byte)), syncOk start rows = true →
    ∃ len ck : Byte, (sent c (.syncWrite start rows))[3]? = some len ∧ (sent c (.syncWrite start rows)).getLast? = some ck ∧
      len.toNat = 4 + (rows.map List.length).sum ∧
      ck.toNat = 255 - (254 + len.toNat + c.opSyncWrite.toNat + start.toNat + ((rows.headD []).length - 1) +
        (rows.map byteSum).sum) % 256

/-- R72, R103, R113, log 5, 6: the instructions that only send: their bytes go out in one step, RXQ and LAST_ERROR stay, and they finish OK. -/
def Obligations.TransmittingInstructionsSendAndFinish : Prop :=
  ∀ (s : State) (i : Instr), transmits i = true →
    (s.phase = .busy i .validate → argsOk s.cfg i = true → s.conn.opened = true →
      exec i s = .next { s with phase := .busy i .send }) ∧
    (s.phase = .busy i .send → exec i s = .next { s with txs := s.txs ++ sent s.cfg i, phase := .busy i (.finish none []) }) ∧
    (s.phase = .busy i (.finish none []) → exec i s = .next { s with
      result := { status := some .ok, err := none, data := .bottom }, phase := .idle }) ∧
    (s.phase = .idle → argsOk s.cfg i = true → s.conn.opened = true →
      execTimes 4 i s = .next { s with
        txs := s.txs ++ sent s.cfg i, result := { status := some .ok, err := none, data := .bottom } })

/-- R99, R101, R102, R114, R54; that the packets OP_READ_DATA to OP_LOOP complete as EXECUTE does is a choice of the model (log 5): an exchange
waiting for its answer, with a valid frame in RXQ, ends IDLE after that frame's bytes and one finish, with the frame's
error byte in LAST_ERROR, the bytes after the frame still in RXQ, nothing sent, and the result its command gives. -/
def Obligations.ExchangesCompleteOnAValidAnswer : Prop :=
  ∀ (s : State) (i : Instr) (id e ck : Byte) (ps rest : List Byte), exchanges i = true → s.phase = .busy i .decode →
    s.dec.dstate = .seekHeader1 → ValidFrame id e ps ck → s.rxq = statusFrame id e ps ck ++ rest →
    ∃ t, execTimes (ps.length + 7) i s = .next t ∧ t.phase = .idle ∧ t.rxq = rest ∧ t.lastError = some e ∧
      t.txs = s.txs ∧ t.conn = s.conn ∧ SameOutside s t ∧
      (executeLike i = true → t.result = { status := some .ok, err := some e, data := .bytes ps }) ∧
      (∀ (j st cnt : Byte), i = .getRegister j st cnt → t.result = { status := some .ok, err := some e, data :=
        if cnt = 1 then (match ps with | v :: _ => .byte v | [] => .fail) else .bytes ps }) ∧
      (∀ (j st : Byte) (vs : List Byte), i = .setRegister j st vs →
        t.result = { status := some .ok, err := some e, data := .bottom })

/-- R67, log 8: every pseudo-command does, step by step, what its expansion does, PHASE's own label apart. -/
def Obligations.PseudoCommandsActAsTheirExpansions : Prop :=
  ∀ (s : State) (st : CmdStep),
    (∀ n : Byte, relabel (.setPoseSize n) (.execute 253 s.cfg.opSetPoseSize [n])
      (exec (.setPoseSize n) { s with phase := .busy (.setPoseSize n) st }) =
      exec (.execute 253 s.cfg.opSetPoseSize [n]) { s with phase := .busy (.execute 253 s.cfg.opSetPoseSize [n]) st }) ∧
    (∀ (k : Byte) (vals : List Nat), vals.all (poseFits s.cfg.poseBytes) = true →
      relabel (.uploadPose k vals) (.execute 253 s.cfg.opLoadPose ([k] ++ poseBytes s.cfg.poseBytes vals))
      (exec (.uploadPose k vals) { s with phase := .busy (.uploadPose k vals) st }) =
      exec (.execute 253 s.cfg.opLoadPose ([k] ++ poseBytes s.cfg.poseBytes vals))
        { s with phase := .busy (.execute 253 s.cfg.opLoadPose ([k] ++ poseBytes s.cfg.poseBytes vals)) st }) ∧
    (∀ bs : List Byte, relabel (.uploadSequence bs) (.execute 253 s.cfg.opLoadSeq bs)
      (exec (.uploadSequence bs) { s with phase := .busy (.uploadSequence bs) st }) =
      exec (.execute 253 s.cfg.opLoadSeq bs) { s with phase := .busy (.execute 253 s.cfg.opLoadSeq bs) st }) ∧
    (relabel .play (.execute 253 s.cfg.opPlay []) (exec .play { s with phase := .busy .play st }) =
      exec (.execute 253 s.cfg.opPlay []) { s with phase := .busy (.execute 253 s.cfg.opPlay []) st }) ∧
    (relabel .loop (.execute 253 s.cfg.opLoop []) (exec .loop { s with phase := .busy .loop st }) =
      exec (.execute 253 s.cfg.opLoop []) { s with phase := .busy (.execute 253 s.cfg.opLoop []) st }) ∧
    (relabel .halt (.writeRaw [0x48]) (exec .halt { s with phase := .busy .halt st }) =
      exec (.writeRaw [0x48]) { s with phase := .busy (.writeRaw [0x48]) st })

/-- Log 5, a choice of the model read from R54 and R99: an instruction packet whose answer is read does, step by step, what the EXECUTE that sends it
does, PHASE's own label apart. -/
def Obligations.PacketsActAsTheExecuteThatSendsThem : Prop :=
  ∀ (s : State) (i : Instr) (st : CmdStep) (id op : Byte) (ps : List Byte), executeLike i = true →
    packetOf s.cfg i = some (id, op, ps) → argsOk s.cfg i = encodable id ps →
    relabel i (.execute id op ps) (exec i { s with phase := .busy i st }) =
      exec (.execute id op ps) { s with phase := .busy (.execute id op ps) st }

/-- R109, R37, R36: UPLOAD_POSE refuses a value that does not fit POSE_VALUE_BYTES before anything is sent, and lays out each value in one byte, or
low byte then high byte. -/
def Obligations.UploadPoseChecksAndLaysOutItsValues : Prop :=
  ∀ (s : State) (k : Byte) (vals : List Nat),
    ((∃ v ∈ vals, (s.cfg.poseBytes = .one ∧ 255 < v) ∨ (s.cfg.poseBytes = .two ∧ 65535 < v)) →
      s.phase = .busy (.uploadPose k vals) .validate →
      exec (.uploadPose k vals) s = .next { s with
        result := { status := some .invalidArgument, err := none, data := .bottom }, phase := .idle }) ∧
    (s.cfg.poseBytes = .one → (∀ v ∈ vals, v ≤ 255) → ∃ bs : List Byte, bs.map BitVec.toNat = vals ∧
      sent s.cfg (.uploadPose k vals) = packet 253 s.cfg.opLoadPose (k :: bs)) ∧
    (s.cfg.poseBytes = .two → (∀ v ∈ vals, v ≤ 65535) → ∃ bs : List Byte, bs.length = 2 * vals.length ∧
      sent s.cfg (.uploadPose k vals) = packet 253 s.cfg.opLoadPose (k :: bs) ∧
      ∀ (n v : Nat), vals[n]? = some v → ∃ lo hi : Byte, bs[2 * n]? = some lo ∧ bs[2 * n + 1]? = some hi ∧
        lo.toNat + 256 * hi.toNat = v)

/-! ### The download procedure -/

/-- R117, R125: DOWNLOAD checks all its inputs before anything is sent; a failure is reported as INVALID_ARGUMENT; valid inputs start the procedure, and
at most 83 poses are then indexed. -/
def Obligations.DownloadChecksItsInputsFirst : Prop :=
  ∀ (s : State) (ts : List Transition) (poses : List Pose) (count : Nat) (mode : PlayMode), s.phase = .idle → s.proc = none →
    (((mode = .play ∨ mode = .loop) ∧
        (∀ t ∈ ts, 1 ≤ t.duration ∧ t.duration ≤ 65535 ∧ (lookupPose poses t.name).isSome = true) ∧ count ≤ 255 ∧
        (∀ n ∈ assign ts, ∃ vs, lookupPose poses n = some vs ∧ vs.length = count ∧ ∀ v ∈ vs, v ≤ poseLimit s.cfg.poseBytes) ∧
        1 + count * s.cfg.poseBytes.toNat ≤ 253 ∧ 3 * ts.length + 3 ≤ 253) →
      (assign ts).length ≤ 83 ∧
      exec (.download ts poses count mode) s = .next { s with
        proc := some { transitions := ts, poses := poses, count := count, mode := mode,
                       todo := downloadPlan ts poses count mode, waiting := false }
        report := none }) ∧
    (¬((mode = .play ∨ mode = .loop) ∧
        (∀ t ∈ ts, 1 ≤ t.duration ∧ t.duration ≤ 65535 ∧ (lookupPose poses t.name).isSome = true) ∧ count ≤ 255 ∧
        (∀ n ∈ assign ts, ∃ vs, lookupPose poses n = some vs ∧ vs.length = count ∧ ∀ v ∈ vs, v ≤ poseLimit s.cfg.poseBytes) ∧
        1 + count * s.cfg.poseBytes.toNat ≤ 253 ∧ 3 * ts.length + 3 ≤ 253) →
      exec (.download ts poses count mode) s = .next { s with
        result := { status := some .invalidArgument, err := none, data := .bottom }
        report := some .invalidArgument })

/-- R118, R119, log 11: a running DOWNLOAD issues its commands in order, each only after the one before finished OK (whatever its device error byte),
stops on the first other status and reports it, and reports OK at the end. -/
def Obligations.DownloadRunsItsCommandsInOrder : Prop :=
  ∀ (s : State) (p : Proc), s.phase = .idle → s.proc = some p →
    (p.waiting = true → s.result.status = some .ok →
      exec (.download p.transitions p.poses p.count p.mode) s = .next { s with proc := some { p with waiting := false } }) ∧
    (p.waiting = true → s.result.status ≠ some .ok →
      exec (.download p.transitions p.poses p.count p.mode) s = .next { s with proc := none, report := s.result.status }) ∧
    (p.waiting = false → p.todo = [] →
      exec (.download p.transitions p.poses p.count p.mode) s = .next { s with proc := none, report := some .ok }) ∧
    (∀ (c : Instr) (rest : List Instr), p.waiting = false → p.todo = c :: rest →
      exec (.download p.transitions p.poses p.count p.mode) s = .next { s with
        phase := .busy c .validate, proc := some { p with todo := rest, waiting := true } })

/-- R118: the commands of DOWNLOAD: SET_POSE_SIZE, one UPLOAD_POSE for each assigned index in order, UPLOAD_SEQUENCE of the stream, then PLAY or
LOOP. -/
def Obligations.DownloadPlanFollowsTheAssignment : Prop :=
  ∀ (ts : List Transition) (poses : List Pose) (count : Nat) (mode : PlayMode),
    (downloadPlan ts poses count mode).length = (assign ts).length + 3 ∧
    (downloadPlan ts poses count mode)[0]? = some (.setPoseSize (lowByte count)) ∧
    (∀ (k : Nat) (n : PoseName) (vs : List Nat), (assign ts)[k]? = some n → lookupPose poses n = some vs →
      (downloadPlan ts poses count mode)[k + 1]? = some (.uploadPose (lowByte k) vs)) ∧
    (downloadPlan ts poses count mode)[(assign ts).length + 1]? = some (.uploadSequence (stream (assign ts) ts)) ∧
    (mode = .play → (downloadPlan ts poses count mode)[(assign ts).length + 2]? = some .play) ∧
    (mode = .loop → (downloadPlan ts poses count mode)[(assign ts).length + 2]? = some .loop)

/-- R115: names get the next unused index at their first appearance, in the order of the transitions. -/
def Obligations.PoseIndicesFollowFirstAppearance : Prop :=
  assign [] = [] ∧
  ∀ (ts : List Transition) (t : Transition),
    (t.name ∈ assign ts → assign (ts ++ [t]) = assign ts) ∧
    (t.name ∉ assign ts → assign (ts ++ [t]) = assign ts ++ [t.name] ∧
      poseIndex (assign (ts ++ [t])) t.name = (assign ts).length) ∧
    (assign ts).Nodup ∧ (∀ n, n ∈ assign ts ↔ ∃ u ∈ ts, u.name = n)

/-- R59, R116, R36: the transition stream: 3T + 3 bytes, a record of index, low byte and high byte of the duration for each transition in order, and the
sentinel 255, 0, 0. -/
def Obligations.TransitionStreamLayout : Prop :=
  ∀ (names : List PoseName) (ts : List Transition), (∀ n, n ∈ names → poseIndex names n < 256) →
    (∀ t ∈ ts, t.name ∈ names ∧ t.duration ≤ 65535) →
    (stream names ts).length = 3 * ts.length + 3 ∧
    (stream names ts).drop (3 * ts.length) = [255, 0, 0] ∧
    ∀ (k : Nat) (t : Transition), ts[k]? = some t →
      ∃ i lo hi : Byte, (stream names ts)[3 * k]? = some i ∧ (stream names ts)[3 * k + 1]? = some lo ∧
        (stream names ts)[3 * k + 2]? = some hi ∧ i.toNat = poseIndex names t.name ∧ lo.toNat + 256 * hi.toNat = t.duration

/-- R121, R122: the commands of the source's example put these bytes on the line, in order; an empty sequence uploads no pose and the sentinel alone. -/
def Obligations.DownloadExamplesOfTheSpec : Prop :=
  ((downloadPlan [⟨⟨0⟩, 500⟩, ⟨⟨1⟩, 300⟩, ⟨⟨0⟩, 700⟩] [⟨⟨0⟩, [0x10, 0x20, 0x30]⟩, ⟨⟨1⟩, [0x40, 0x50, 0x60]⟩] 3 .play).map
      (sent Params.default) =
    [[0xFF, 0xFF, 0xFD, 0x03, 0x07, 0x03, 0xF5],
     [0xFF, 0xFF, 0xFD, 0x06, 0x08, 0x00, 0x10, 0x20, 0x30, 0x94],
     [0xFF, 0xFF, 0xFD, 0x06, 0x08, 0x01, 0x40, 0x50, 0x60, 0x03],
     [0xFF, 0xFF, 0xFD, 0x0E, 0x09, 0x00, 0xF4, 0x01, 0x01, 0x2C, 0x01, 0x00, 0xBC, 0x02, 0xFF, 0x00, 0x00, 0x0B],
     [0xFF, 0xFF, 0xFD, 0x02, 0x0A, 0xF6]]) ∧
  (∀ (poses : List Pose) (count : Nat), downloadPlan [] poses count .loop =
    [.setPoseSize (lowByte count), .uploadSequence [255, 0, 0], .loop])

/-! ### Frames -/

/-- R99, R101, R102: what an exchange leaves unchanged in any of its steps. CONN and everything outside the block stay; TXS grows only in the send step, by
the packet; RXQ loses its head in the decode step and all of it in the flush step; LAST_ERROR changes only in READ_ERROR; RESULT only at a finish; the
decoder's registers only at the start of the decode and in it. -/
def Obligations.ExchangeFrame : Prop :=
  ∀ (s t : State) (i : Instr), exchanges i = true → exec i s = .next t →
    SameOutside s t ∧ t.conn = s.conn ∧
    (t.txs = s.txs ∨ (s.phase = .busy i .send ∧ t.txs = s.txs ++ sent s.cfg i)) ∧
    (t.rxq = s.rxq ∨ (s.phase = .busy i .flush ∧ t.rxq = []) ∨ (s.phase = .busy i .decode ∧ t.rxq = s.rxq.tail)) ∧
    (t.lastError = s.lastError ∨ (s.phase = .busy i .decode ∧ s.dec.dstate = .readError ∧ t.lastError = s.rxq.head?)) ∧
    (t.dec = s.dec ∨ (s.phase = .busy i .send ∧ t.dec = { s.dec with dstate := .seekHeader1 }) ∨ s.phase = .busy i .decode) ∧
    (t.result = s.result ∨ t.phase = .idle)

/-- R72, R103, R113: an instruction that only sends changes nothing but TXS, RESULT and PHASE. -/
def Obligations.TransmitFrame : Prop :=
  ∀ (s t : State) (i : Instr), transmits i = true → exec i s = .next t →
    SameOutside s t ∧ t.conn = s.conn ∧ t.dec = s.dec ∧ t.lastError = s.lastError ∧ t.rxq = s.rxq ∧
    (t.txs = s.txs ∨ (s.phase = .busy i .send ∧ t.txs = s.txs ++ sent s.cfg i)) ∧
    (t.result = s.result ∨ t.phase = .idle)

/-- R71, R73, R74: OPEN, READ_BYTE and FLUSH_INPUT send nothing and change no decoder register and not LAST_ERROR; CONN is OPEN's alone; RXQ loses its head
to a read, or all of it to a flush or an OPEN. -/
def Obligations.TransportFrame : Prop :=
  ∀ (s t : State) (i : Instr), isOpen i = true ∨ i = .readByte ∨ i = .flushInput → exec i s = .next t →
    SameOutside s t ∧ t.txs = s.txs ∧ t.dec = s.dec ∧ t.lastError = s.lastError ∧
    (t.conn = s.conn ∨ isOpen i = true) ∧
    (t.rxq = s.rxq ∨ (s.phase = .busy .readByte .read ∧ t.rxq = s.rxq.tail) ∨ (s.phase = .busy .flushInput .flush ∧ t.rxq = []) ∨
      (s.phase = .busy i .connect ∧ t.rxq = [])) ∧
    (t.result = s.result ∨ t.phase = .idle)

/-- R118, log 11: a step of DOWNLOAD changes the host's procedure and its report, PHASE when it issues a command, and RESULT only where its inputs
are refused. -/
def Obligations.DownloadFrame : Prop :=
  ∀ (s t : State) (i : Instr), isDownload i = true → exec i s = .next t →
    t.conn = s.conn ∧ t.dec = s.dec ∧ t.lastError = s.lastError ∧ t.rxq = s.rxq ∧ t.txs = s.txs ∧ t.cfg = s.cfg ∧
    t.draws = s.draws ∧ t.tick = s.tick ∧ t.hostQ = s.hostQ ∧ t.rst = s.rst ∧ t.timerFires = s.timerFires ∧
    t.connectOk = s.connectOk ∧ t.interject = s.interject ∧
    (t.result = s.result ∨ (s.proc = none ∧ t.report = some .invalidArgument)) ∧
    (t.phase = .idle ∨ ∃ c, t.phase = .busy c .validate)

/-! ### The whole machine -/

/-- R12, R76: only OPEN writes CONN, and a closed connection stays closed until an OPEN succeeds. -/
def Obligations.OnlyOpenWritesTheConnection : Prop :=
  ∀ s t : State, s.rst = false → step s = .next t →
    (t.conn ≠ s.conn → ∃ port baud timeout st, s.phase = .busy (.openPort port baud timeout) st) ∧
    (s.conn.opened = false → t.conn.opened = true →
      ∃ port baud timeout e ps, s.phase = .busy (.openPort port baud timeout) (.finish e ps) ∧ t.result.status = some .ok)

/-- R19: LAST_ERROR is written only by a decode in READ_ERROR, with the byte it reads; no other command and no failure clears it. -/
def Obligations.OnlyTheErrorByteWritesLastError : Prop :=
  ∀ s t : State, s.rst = false → step s = .next t →
    t.lastError = s.lastError ∨
    ∃ i b, exchanges i = true ∧ s.phase = .busy i .decode ∧ s.dec.dstate = .readError ∧ (sample s).rxq.head? = some b ∧
      t.lastError = some b

/-- R21, R41, R42: TXS only grows, only by the bytes of the command in its send step; so nothing is sent while a decode runs, and never a byte is removed
or reordered. -/
def Obligations.TransmitStreamOnlyGrowsBySends : Prop :=
  ∀ s t : State, s.rst = false → step s = .next t →
    t.txs = s.txs ∨ ∃ i, s.phase = .busy i .send ∧ t.txs = s.txs ++ sent s.cfg i

/-- R20, R24, R27, R43: bytes enter RXQ only at its tail and from the bus, and leave it only at its head by a read or all at once by a flush or an
OPEN. -/
def Obligations.ReceiveQueueIsAFifo : Prop :=
  ∀ s t : State, s.rst = false → step s = .next t →
    t.rxq = (sample s).rxq ∨
    (∃ i, (s.phase = .busy i .decode ∨ s.phase = .busy i .read) ∧ ∃ b, (sample s).rxq = b :: t.rxq) ∨
    (∃ i, (s.phase = .busy i .flush ∨ s.phase = .busy i .connect) ∧ t.rxq = [])

/-- The invariant holds after reset, in every configuration. -/
def Obligations.ResetMeetsTheInvariant : Prop := ∀ c : Params, LegalState (State.resetWith c)

/-- R14, R16, R17, R27, R98, R139: every step keeps the invariant and the configuration: PHASE stays legal, past validation only with checked arguments and, but for OPEN, an open
connection; the decoder's registers are written before they are read; PBUF keeps its capacity; a closed block has nothing in RXQ. -/
def Obligations.EveryStepKeepsTheInvariant : Prop :=
  ∀ s t : State, LegalState s → step s = .next t → LegalState t ∧ t.cfg = s.cfg

/-- R138, R16, R23, R61: from a state that meets the invariant every step answers a next state: no fault, no refusal, whatever the host hands over.
R140: in every such step, in the middle of a command too, a reset may be applied; the next step takes it, which is a choice of the model
(log 12). -/
def Obligations.LegalStatesNeverStop : Prop :=
  ∀ s : State, LegalState s → ∃ t, step s = .next t ∧ t.rst = (currentDraw s).reset ∧
    (t.rst = true → ∃ u, step t = .next u ∧ u.phase = .idle ∧ u.result = Result.reset)

/-- R69, R90, R133: a read on a silent line ends with READ_TIMEOUT at the step in which the Timer first fires, and not before. The silence and the firing are
hypotheses on the draws (log 2). R155: in a run in which the Timer is weakly fair, no read holds on an empty RXQ forever, and a read on a
silent line ends with READ_TIMEOUT; fairness is a hypothesis on the run (log 18). -/
def Obligations.SilentReadEndsWhenTheTimerFires : Prop :=
  (∀ (s : State) (i : Instr) (n : Nat) (ds : List Draw), (exchanges i = true ∧ s.phase = .busy i .decode) ∨ (i = .readByte ∧ s.phase = .busy i .read) →
    s.rst = false → s.rxq = [] →
    s.draws = List.replicate n Draw.quiet ++ { Draw.quiet with timer := true } :: ds →
    (∃ t, Host.Core.run Sys2Proof.core n s = .next t ∧ t.phase = s.phase ∧ t.result = s.result) ∧
    ∃ t, Host.Core.run Sys2Proof.core (n + 1) s = .next t ∧ t.phase = .idle ∧ t.result.status = some .readTimeout ∧
      t.txs = s.txs ∧ t.lastError = s.lastError ∧ t.draws = ds) ∧
  ∀ r : Nat → State, IsRun r → TimerFair r →
    (∀ n, ∃ k, n ≤ k ∧ readsEmpty (r k) = false) ∧
    ∀ n, reading (r n) = true → (r n).rxq = [] → SilentFrom r n →
      ∃ k, n ≤ k ∧ (∀ j, n ≤ j → j ≤ k → (r j).phase = (r n).phase ∧ (r j).result = (r n).result) ∧
        (r (k + 1)).phase = .idle ∧ (r (k + 1)).result.status = some .readTimeout ∧
        (r (k + 1)).txs = (r n).txs ∧ (r (k + 1)).lastError = (r n).lastError

/-- R124, R15: the codes of the statuses and of the decoder's states; 5 to 7, and 7, are never produced. -/
def Obligations.StatusAndDecoderCodes : Prop :=
  [Status.ok, .connectionError, .readTimeout, .checksumError, .invalidArgument].map statusCode = [0, 1, 2, 3, 4] ∧
  (∀ st : Status, (statusCode st).toNat < 5) ∧
  [DState.seekHeader1, .seekHeader2, .readId, .readLength, .readError, .readParams, .readChecksum].map dstateCode =
    [0, 1, 2, 3, 4, 5, 6] ∧
  (∀ d : DState, (dstateCode d).toNat < 7)
end

