-- ==== Sys2Proof/Laws/Codec.lean ====
section
/-! SUPPORT. The packet encoder and the decoder: exact sums, the decoder over joined lists and over a frame's parameters, and PBUF's bound. -/

namespace Sys2Proof

open Config

theorem byteSum_append (xs ys : List Byte) : byteSum (xs ++ ys) = byteSum xs + byteSum ys := by
  induction xs with
  | nil => simp [byteSum]
  | cons x xs ih => simp [byteSum, ih]; omega

theorem lowByte_toNat (n : Nat) : (lowByte n).toNat = n % 256 := by simp [lowByte]

theorem lengthByte_toNat {ps : List Byte} (h : ps.length ≤ 253) : (lengthByte ps).toNat = ps.length + 2 := by
  rw [lengthByte, lowByte_toNat]; omega

theorem checksumByte_toNat {id op : Byte} {ps : List Byte} (h : ps.length ≤ 253) :
    (checksumByte id op ps).toNat = 255 - (id.toNat + (ps.length + 2) + op.toNat + byteSum ps) % 256 := by
  rw [checksumByte, lowByte_toNat, lengthByte_toNat h]; omega

theorem checksumOk_iff {id len op ck : Byte} {ps : List Byte} :
    checksumOk id len op ps ck = true ↔ (id.toNat + len.toNat + op.toNat + byteSum ps + ck.toNat) % 256 = 255 := by
  simp [checksumOk]

/-- The checksum byte of R50 passes the test of R51. -/
theorem checksumOk_packet {id op : Byte} {ps : List Byte} (h : ps.length ≤ 253) :
    checksumOk id (lengthByte ps) op ps (checksumByte id op ps) = true := by
  rw [checksumOk_iff, checksumByte_toNat h, lengthByte_toNat h]; omega

/-- Every framed packet, whatever its target id, opcode and parameters, is read as an instruction. -/
theorem decodePacket_packet (c : Params) (id op : Byte) {ps : List Byte} (h : ps.length ≤ 253) :
    decodePacket c (packet id op ps) = .instr (instrOfPacket c id op ps) := by
  have e : packet id op ps = headerByte :: headerByte :: id :: lengthByte ps :: op :: (ps ++ [checksumByte id op ps]) := rfl
  simp only [e, decodePacket, ne_eq, not_true, or_self, if_false, List.getLast?_concat, List.dropLast_concat, checksumOk_packet h,
    if_true, lengthByte_toNat h, List.length_append, List.length_singleton]

end Sys2Proof

namespace Sys2Proof.Machine

open Config

/-- The instruction read from a packet stands for exactly that packet, so a target id of 0 or 255 meets that instruction's own argument
check (R61). -/
theorem packetOf_instrOfPacket (c : Params) (id op : Byte) (ps : List Byte) :
    packetOf c (instrOfPacket c id op ps) = some (id, op, ps) := by
  unfold instrOfPacket
  repeat' split
  all_goals first | rfl | simp_all [packetOf]

/-- A packet is a status frame with the instruction byte in the place of the error byte. -/
theorem packet_eq_statusFrame (id op : Byte) (ps : List Byte) :
    packet id op ps = statusFrame id op ps (checksumByte id op ps) := rfl

/-- The decoder over joined lists: where the first does not end the decode, the second goes on from there. -/
theorem feed_append {d d' : Decoder} {xs : List Byte} (ys : List Byte) (h : feed d xs = .running d') :
    feed d (xs ++ ys) = feed d' ys := by
  induction xs generalizing d with
  | nil => simp [feed] at h; simp [h]
  | cons x xs ih =>
    simp only [feed, List.cons_append] at h ⊢
    cases hb : decoderByte d x with
    | more d1 => simp only [hb] at h ⊢; exact ih h
    | success _ _ => simp [hb] at h
    | checksumError => simp [hb] at h
    | bottom _ => simp [hb] at h

theorem pbufPush_length {pb : List Byte} {b : Byte} (h : pb.length < 253) : pbufPush pb b = pb ++ [b] := by
  simp [pbufPush, pbufCap, h]

theorem pbufPush_le {pb : List Byte} {b : Byte} (h : pb.length ≤ pbufCap) : (pbufPush pb b).length ≤ pbufCap := by
  unfold pbufPush; split
  · simpa using by assumption
  · exact h

/-- PBUF never exceeds its capacity (R17). -/
theorem decoderByte_pbuf {d d' : Decoder} {b : Byte} (h : decoderByte d b = .more d') (hd : d.pbuf.length ≤ pbufCap) :
    d'.pbuf.length ≤ pbufCap := by
  rcases d with ⟨st, rid, rlen, rerr, pb⟩
  cases st <;>
    simp only [decoderByte, seekHeader1, seekHeader2, readId, readLength, readError, readParam, readChecksum] at h
  case readId => split at h <;> cases h <;> exact hd
  case readError => cases rlen <;> simp at h; rw [← h]; simp
  case readParams => cases rlen <;> simp at h; rw [← h]; exact pbufPush_le hd
  case readChecksum =>
    cases rid <;> cases rlen <;> cases rerr <;> simp at h
    split at h <;> cases h
  all_goals cases h; exact hd

/-- Feeding the last `ps.length` parameter bytes of a frame whose length byte asks for exactly those ends in READ_CHECKSUM. -/
theorem feed_params {d : Decoder} {l : Byte} {ps : List Byte} (hd : d.dstate = .readParams) (hl : d.rlen = some l)
    (hp : ps ≠ []) (hn : d.pbuf.length + ps.length + 2 = l.toNat) :
    feed d ps = .running { d with pbuf := d.pbuf ++ ps, dstate := .readChecksum } := by
  induction ps generalizing d with
  | nil => exact absurd rfl hp
  | cons p ps ih =>
    have hlt : d.pbuf.length < 253 := by have := l.isLt; simp at hn; omega
    have hstep : decoderByte d p = .more { d with
        pbuf := d.pbuf ++ [p], dstate := if ps = [] then .readChecksum else .readParams } := by
      simp only [decoderByte, hd, readParam, hl, pbufPush_length hlt]
      congr 2
      have : (d.pbuf ++ [p]).length + 2 = l.toNat ↔ ps = [] := by
        simp at hn ⊢; rw [← List.length_eq_zero_iff]; omega
      simp only [this]
    simp only [feed, hstep]
    by_cases he : ps = []
    · subst he; simp [feed]
    · rw [if_neg he]
      refine (ih (d := { d with pbuf := d.pbuf ++ [p], dstate := .readParams }) rfl hl he ?_).trans (by simp)
      simp at hn ⊢; omega

end Sys2Proof.Machine
end

