-- ==== Sys2Proof/Laws/Operands.lean ====
section
/-! SUPPORT. What each argument check says, and the download procedure's pure functions over joined lists. -/

namespace Sys2Proof.Machine

open Config

/-! ### Argument checks -/

theorem encodable_iff (id : Byte) (ps : List Byte) :
    encodable id ps = true ↔ (id ≠ 0 ∧ id ≠ 255) ∧ ps.length ≤ 253 := by
  have h : (1 ≤ id.toNat ∧ id.toNat ≤ 254) ↔ (id ≠ 0 ∧ id ≠ 255) := by
    have h0 : id = 0 ↔ id.toNat = 0 := ⟨fun h => by simp [h], fun h => BitVec.eq_of_toNat_eq h⟩
    have h255 : id = 255 ↔ id.toNat = 255 := ⟨fun h => by simp [h], fun h => BitVec.eq_of_toNat_eq h⟩
    have := id.isLt
    rw [Ne, Ne, h0, h255]; omega
  simp only [encodable, Bool.and_eq_true, decide_eq_true_eq, h]

theorem openOk_iff (baud timeout : Option Nat) :
    openOk baud timeout = true ↔ baud.getD 1000000 ≠ 0 ∧ timeout.getD 500000 ≠ 0 := by
  simp [openOk, openBaud, openTimeout, defaultBaud, defaultTimeout]

theorem syncOk_iff (start : Byte) (rows : List (List Byte)) :
    syncOk start rows = true ↔
      rows ≠ [] ∧ (∀ r ∈ rows, r.length ≠ 0 ∧ r.length = (rows.headD []).length) ∧ 2 + rows.flatten.length ≤ 253 := by
  simp only [syncOk, syncRowsOk, Bool.and_eq_true, List.all_eq_true, decide_eq_true_eq]
  have hlen : (syncParams start rows).length = 2 + rows.flatten.length := by
    simp only [syncParams, List.length_cons]; omega
  rw [hlen]
  constructor
  · rintro ⟨⟨⟨h0, h1⟩, h2⟩, h3⟩
    exact ⟨by simpa using h0, fun r hr => ⟨by simpa using h1 r hr, by simpa using h2 r hr⟩, h3⟩
  · rintro ⟨h0, h1, h3⟩
    exact ⟨⟨⟨by simpa using h0, fun r hr => by simpa using (h1 r hr).1⟩, fun r hr => by simpa using (h1 r hr).2⟩, h3⟩

theorem poseFits_iff (w : PoseWidth) (v : Nat) : poseFits w v = true ↔ v ≤ poseLimit w := by
  cases w <;> simp [poseFits, poseLimit]

theorem poseOk_iff (w : PoseWidth) (poses : List Pose) (count : Nat) (n : PoseName) :
    poseOk w poses count n = true ↔
      ∃ vs, lookupPose poses n = some vs ∧ vs.length = count ∧ ∀ v ∈ vs, v ≤ poseLimit w := by
  unfold poseOk
  cases lookupPose poses n <;> simp [poseFits_iff]

theorem downloadOk_iff (w : PoseWidth) (ts : List Transition) (poses : List Pose) (count : Nat) (mode : PlayMode) :
    downloadOk w ts poses count mode = true ↔
      (mode = .play ∨ mode = .loop) ∧
      (∀ t ∈ ts, 1 ≤ t.duration ∧ t.duration ≤ 65535 ∧ (lookupPose poses t.name).isSome = true) ∧ count ≤ 255 ∧
      (∀ n ∈ assign ts, ∃ vs, lookupPose poses n = some vs ∧ vs.length = count ∧ ∀ v ∈ vs, v ≤ poseLimit w) ∧
      1 + count * w.toNat ≤ 253 ∧ 3 * ts.length + 3 ≤ 253 := by
  simp only [downloadOk, Bool.and_eq_true, decide_eq_true_eq, List.all_eq_true, poseOk_iff, transitionOk, Bool.or_eq_true,
    beq_iff_eq, maxParams, and_assoc]

/-! ### The download procedure's lists -/

theorem assignFrom_append (seen : List PoseName) (ts us : List Transition) :
    assignFrom seen (ts ++ us) = assignFrom (assignFrom seen ts) us := by
  induction ts generalizing seen with
  | nil => rfl
  | cons t ts ih => simp [assignFrom, ih]

theorem assignFrom_length_le (seen : List PoseName) (ts : List Transition) :
    (assignFrom seen ts).length ≤ seen.length + ts.length := by
  induction ts generalizing seen with
  | nil => simp [assignFrom]
  | cons t ts ih =>
    rw [assignFrom]; refine (ih _).trans ?_
    split <;> simp <;> omega

theorem uploads_length (poses : List Pose) (k : Nat) (ns : List PoseName) : (uploads poses k ns).length = ns.length := by
  induction ns generalizing k with
  | nil => rfl
  | cons n ns ih => simp [uploads, ih]

theorem uploads_getElem? {poses : List Pose} {k j : Nat} {ns : List PoseName} {n : PoseName} (h : ns[j]? = some n) :
    (uploads poses k ns)[j]? = some (Instr.uploadPose (lowByte (k + j)) ((lookupPose poses n).getD [])) := by
  induction ns generalizing k j with
  | nil => simp at h
  | cons n ns ih =>
    cases j with
    | zero => simp at h; simp [uploads, h]
    | succ j => simp at h; simp [uploads, ih h]; congr 1; omega

theorem transitionRecords_length (names : List PoseName) (ts : List Transition) :
    (transitionRecords names ts).length = 3 * ts.length := by
  induction ts with
  | nil => rfl
  | cons t ts ih => simp [transitionRecords, transitionRecord, ih]; omega

end Sys2Proof.Machine
end

