-- ==== Sys2Proof/Laws/State.lean ====
section
/-! SUPPORT. What each named operation leaves in each field of State, and the fields after reset. -/

namespace Sys2Proof.Machine

open Config

variable (s : State)

/-! ### accept -/

@[simp] theorem accept_conn (i : Instr) : (accept i s).conn = s.conn := rfl
@[simp] theorem accept_phase (i : Instr) : (accept i s).phase = .busy i .validate := rfl
@[simp] theorem accept_dec (i : Instr) : (accept i s).dec = s.dec := rfl
@[simp] theorem accept_result (i : Instr) : (accept i s).result = s.result := rfl
@[simp] theorem accept_lastError (i : Instr) : (accept i s).lastError = s.lastError := rfl
@[simp] theorem accept_rxq (i : Instr) : (accept i s).rxq = s.rxq := rfl
@[simp] theorem accept_txs (i : Instr) : (accept i s).txs = s.txs := rfl
@[simp] theorem accept_cfg (i : Instr) : (accept i s).cfg = s.cfg := rfl
@[simp] theorem accept_timerFires (i : Instr) : (accept i s).timerFires = s.timerFires := rfl
@[simp] theorem accept_connectOk (i : Instr) : (accept i s).connectOk = s.connectOk := rfl
@[simp] theorem accept_interject (i : Instr) : (accept i s).interject = s.interject := rfl
@[simp] theorem accept_draws (i : Instr) : (accept i s).draws = s.draws := rfl
@[simp] theorem accept_tick (i : Instr) : (accept i s).tick = s.tick := rfl
@[simp] theorem accept_hostQ (i : Instr) : (accept i s).hostQ = s.hostQ := rfl
@[simp] theorem accept_proc (i : Instr) : (accept i s).proc = s.proc := rfl
@[simp] theorem accept_report (i : Instr) : (accept i s).report = s.report := rfl
@[simp] theorem accept_rst (i : Instr) : (accept i s).rst = s.rst := rfl

/-! ### goto -/

@[simp] theorem goto_conn (i : Instr) (st : CmdStep) : (goto i st s).conn = s.conn := rfl
@[simp] theorem goto_phase (i : Instr) (st : CmdStep) : (goto i st s).phase = .busy i st := rfl
@[simp] theorem goto_dec (i : Instr) (st : CmdStep) : (goto i st s).dec = s.dec := rfl
@[simp] theorem goto_result (i : Instr) (st : CmdStep) : (goto i st s).result = s.result := rfl
@[simp] theorem goto_lastError (i : Instr) (st : CmdStep) : (goto i st s).lastError = s.lastError := rfl
@[simp] theorem goto_rxq (i : Instr) (st : CmdStep) : (goto i st s).rxq = s.rxq := rfl
@[simp] theorem goto_txs (i : Instr) (st : CmdStep) : (goto i st s).txs = s.txs := rfl
@[simp] theorem goto_cfg (i : Instr) (st : CmdStep) : (goto i st s).cfg = s.cfg := rfl
@[simp] theorem goto_timerFires (i : Instr) (st : CmdStep) : (goto i st s).timerFires = s.timerFires := rfl
@[simp] theorem goto_connectOk (i : Instr) (st : CmdStep) : (goto i st s).connectOk = s.connectOk := rfl
@[simp] theorem goto_interject (i : Instr) (st : CmdStep) : (goto i st s).interject = s.interject := rfl
@[simp] theorem goto_draws (i : Instr) (st : CmdStep) : (goto i st s).draws = s.draws := rfl
@[simp] theorem goto_tick (i : Instr) (st : CmdStep) : (goto i st s).tick = s.tick := rfl
@[simp] theorem goto_hostQ (i : Instr) (st : CmdStep) : (goto i st s).hostQ = s.hostQ := rfl
@[simp] theorem goto_proc (i : Instr) (st : CmdStep) : (goto i st s).proc = s.proc := rfl
@[simp] theorem goto_report (i : Instr) (st : CmdStep) : (goto i st s).report = s.report := rfl
@[simp] theorem goto_rst (i : Instr) (st : CmdStep) : (goto i st s).rst = s.rst := rfl

/-! ### finish -/

@[simp] theorem finish_conn (r : Result) : (finish r s).conn = s.conn := rfl
@[simp] theorem finish_phase (r : Result) : (finish r s).phase = .idle := rfl
@[simp] theorem finish_dec (r : Result) : (finish r s).dec = s.dec := rfl
@[simp] theorem finish_result (r : Result) : (finish r s).result = r := rfl
@[simp] theorem finish_lastError (r : Result) : (finish r s).lastError = s.lastError := rfl
@[simp] theorem finish_rxq (r : Result) : (finish r s).rxq = s.rxq := rfl
@[simp] theorem finish_txs (r : Result) : (finish r s).txs = s.txs := rfl
@[simp] theorem finish_cfg (r : Result) : (finish r s).cfg = s.cfg := rfl
@[simp] theorem finish_timerFires (r : Result) : (finish r s).timerFires = s.timerFires := rfl
@[simp] theorem finish_connectOk (r : Result) : (finish r s).connectOk = s.connectOk := rfl
@[simp] theorem finish_interject (r : Result) : (finish r s).interject = s.interject := rfl
@[simp] theorem finish_draws (r : Result) : (finish r s).draws = s.draws := rfl
@[simp] theorem finish_tick (r : Result) : (finish r s).tick = s.tick := rfl
@[simp] theorem finish_hostQ (r : Result) : (finish r s).hostQ = s.hostQ := rfl
@[simp] theorem finish_proc (r : Result) : (finish r s).proc = s.proc := rfl
@[simp] theorem finish_report (r : Result) : (finish r s).report = s.report := rfl
@[simp] theorem finish_rst (r : Result) : (finish r s).rst = s.rst := rfl

/-! ### refuseRequest -/

@[simp] theorem refuseRequest_eq : refuseRequest s = finish (plainResult .invalidArgument) s := rfl

/-! ### txSend -/

@[simp] theorem txSend_conn (bs : List Byte) : (txSend bs s).conn = s.conn := rfl
@[simp] theorem txSend_phase (bs : List Byte) : (txSend bs s).phase = s.phase := rfl
@[simp] theorem txSend_dec (bs : List Byte) : (txSend bs s).dec = s.dec := rfl
@[simp] theorem txSend_result (bs : List Byte) : (txSend bs s).result = s.result := rfl
@[simp] theorem txSend_lastError (bs : List Byte) : (txSend bs s).lastError = s.lastError := rfl
@[simp] theorem txSend_rxq (bs : List Byte) : (txSend bs s).rxq = s.rxq := rfl
@[simp] theorem txSend_txs (bs : List Byte) : (txSend bs s).txs = s.txs ++ bs := rfl
@[simp] theorem txSend_cfg (bs : List Byte) : (txSend bs s).cfg = s.cfg := rfl
@[simp] theorem txSend_timerFires (bs : List Byte) : (txSend bs s).timerFires = s.timerFires := rfl
@[simp] theorem txSend_connectOk (bs : List Byte) : (txSend bs s).connectOk = s.connectOk := rfl
@[simp] theorem txSend_interject (bs : List Byte) : (txSend bs s).interject = s.interject := rfl
@[simp] theorem txSend_draws (bs : List Byte) : (txSend bs s).draws = s.draws := rfl
@[simp] theorem txSend_tick (bs : List Byte) : (txSend bs s).tick = s.tick := rfl
@[simp] theorem txSend_hostQ (bs : List Byte) : (txSend bs s).hostQ = s.hostQ := rfl
@[simp] theorem txSend_proc (bs : List Byte) : (txSend bs s).proc = s.proc := rfl
@[simp] theorem txSend_report (bs : List Byte) : (txSend bs s).report = s.report := rfl
@[simp] theorem txSend_rst (bs : List Byte) : (txSend bs s).rst = s.rst := rfl

/-! ### rxFlush -/

@[simp] theorem rxFlush_conn : (rxFlush s).conn = s.conn := rfl
@[simp] theorem rxFlush_phase : (rxFlush s).phase = s.phase := rfl
@[simp] theorem rxFlush_dec : (rxFlush s).dec = s.dec := rfl
@[simp] theorem rxFlush_result : (rxFlush s).result = s.result := rfl
@[simp] theorem rxFlush_lastError : (rxFlush s).lastError = s.lastError := rfl
@[simp] theorem rxFlush_rxq : (rxFlush s).rxq = [] := rfl
@[simp] theorem rxFlush_txs : (rxFlush s).txs = s.txs := rfl
@[simp] theorem rxFlush_cfg : (rxFlush s).cfg = s.cfg := rfl
@[simp] theorem rxFlush_timerFires : (rxFlush s).timerFires = s.timerFires := rfl
@[simp] theorem rxFlush_connectOk : (rxFlush s).connectOk = s.connectOk := rfl
@[simp] theorem rxFlush_interject : (rxFlush s).interject = s.interject := rfl
@[simp] theorem rxFlush_draws : (rxFlush s).draws = s.draws := rfl
@[simp] theorem rxFlush_tick : (rxFlush s).tick = s.tick := rfl
@[simp] theorem rxFlush_hostQ : (rxFlush s).hostQ = s.hostQ := rfl
@[simp] theorem rxFlush_proc : (rxFlush s).proc = s.proc := rfl
@[simp] theorem rxFlush_report : (rxFlush s).report = s.report := rfl
@[simp] theorem rxFlush_rst : (rxFlush s).rst = s.rst := rfl

/-! ### startDecode -/

@[simp] theorem startDecode_conn : (startDecode s).conn = s.conn := rfl
@[simp] theorem startDecode_phase : (startDecode s).phase = s.phase := rfl
@[simp] theorem startDecode_dec : (startDecode s).dec = { s.dec with dstate := .seekHeader1 } := rfl
@[simp] theorem startDecode_result : (startDecode s).result = s.result := rfl
@[simp] theorem startDecode_lastError : (startDecode s).lastError = s.lastError := rfl
@[simp] theorem startDecode_rxq : (startDecode s).rxq = s.rxq := rfl
@[simp] theorem startDecode_txs : (startDecode s).txs = s.txs := rfl
@[simp] theorem startDecode_cfg : (startDecode s).cfg = s.cfg := rfl
@[simp] theorem startDecode_timerFires : (startDecode s).timerFires = s.timerFires := rfl
@[simp] theorem startDecode_connectOk : (startDecode s).connectOk = s.connectOk := rfl
@[simp] theorem startDecode_interject : (startDecode s).interject = s.interject := rfl
@[simp] theorem startDecode_draws : (startDecode s).draws = s.draws := rfl
@[simp] theorem startDecode_tick : (startDecode s).tick = s.tick := rfl
@[simp] theorem startDecode_hostQ : (startDecode s).hostQ = s.hostQ := rfl
@[simp] theorem startDecode_proc : (startDecode s).proc = s.proc := rfl
@[simp] theorem startDecode_report : (startDecode s).report = s.report := rfl
@[simp] theorem startDecode_rst : (startDecode s).rst = s.rst := rfl

/-! ### busAppend -/

@[simp] theorem busAppend_conn (bs : List Byte) : (busAppend bs s).conn = s.conn := rfl
@[simp] theorem busAppend_phase (bs : List Byte) : (busAppend bs s).phase = s.phase := rfl
@[simp] theorem busAppend_dec (bs : List Byte) : (busAppend bs s).dec = s.dec := rfl
@[simp] theorem busAppend_result (bs : List Byte) : (busAppend bs s).result = s.result := rfl
@[simp] theorem busAppend_lastError (bs : List Byte) : (busAppend bs s).lastError = s.lastError := rfl
@[simp] theorem busAppend_rxq (bs : List Byte) : (busAppend bs s).rxq = if s.conn.opened then s.rxq ++ bs else s.rxq := rfl
@[simp] theorem busAppend_txs (bs : List Byte) : (busAppend bs s).txs = s.txs := rfl
@[simp] theorem busAppend_cfg (bs : List Byte) : (busAppend bs s).cfg = s.cfg := rfl
@[simp] theorem busAppend_timerFires (bs : List Byte) : (busAppend bs s).timerFires = s.timerFires := rfl
@[simp] theorem busAppend_connectOk (bs : List Byte) : (busAppend bs s).connectOk = s.connectOk := rfl
@[simp] theorem busAppend_interject (bs : List Byte) : (busAppend bs s).interject = s.interject := rfl
@[simp] theorem busAppend_draws (bs : List Byte) : (busAppend bs s).draws = s.draws := rfl
@[simp] theorem busAppend_tick (bs : List Byte) : (busAppend bs s).tick = s.tick := rfl
@[simp] theorem busAppend_hostQ (bs : List Byte) : (busAppend bs s).hostQ = s.hostQ := rfl
@[simp] theorem busAppend_proc (bs : List Byte) : (busAppend bs s).proc = s.proc := rfl
@[simp] theorem busAppend_report (bs : List Byte) : (busAppend bs s).report = s.report := rfl
@[simp] theorem busAppend_rst (bs : List Byte) : (busAppend bs s).rst = s.rst := rfl

/-! ### sample -/

@[simp] theorem sample_conn : (sample s).conn = s.conn := rfl
@[simp] theorem sample_phase : (sample s).phase = s.phase := rfl
@[simp] theorem sample_dec : (sample s).dec = s.dec := rfl
@[simp] theorem sample_result : (sample s).result = s.result := rfl
@[simp] theorem sample_lastError : (sample s).lastError = s.lastError := rfl
@[simp] theorem sample_rxq : (sample s).rxq = if s.conn.opened then s.rxq ++ (currentDraw s).bus else s.rxq := rfl
@[simp] theorem sample_txs : (sample s).txs = s.txs := rfl
@[simp] theorem sample_cfg : (sample s).cfg = s.cfg := rfl
@[simp] theorem sample_timerFires : (sample s).timerFires = (currentDraw s).timer := rfl
@[simp] theorem sample_connectOk : (sample s).connectOk = (currentDraw s).connect := rfl
@[simp] theorem sample_interject : (sample s).interject = (currentDraw s).interject := rfl
@[simp] theorem sample_draws : (sample s).draws = s.draws.tail := rfl
@[simp] theorem sample_tick : (sample s).tick = s.tick + 1 := rfl
@[simp] theorem sample_hostQ : (sample s).hostQ = s.hostQ := rfl
@[simp] theorem sample_proc : (sample s).proc = s.proc := rfl
@[simp] theorem sample_report : (sample s).report = s.report := rfl
@[simp] theorem sample_rst : (sample s).rst = (currentDraw s).reset := rfl

/-! ### resetBlock -/

@[simp] theorem resetBlock_conn : (resetBlock s).conn = Conn.reset := rfl
@[simp] theorem resetBlock_phase : (resetBlock s).phase = .idle := rfl
@[simp] theorem resetBlock_dec : (resetBlock s).dec = Decoder.reset := rfl
@[simp] theorem resetBlock_result : (resetBlock s).result = Result.reset := rfl
@[simp] theorem resetBlock_lastError : (resetBlock s).lastError = none := rfl
@[simp] theorem resetBlock_rxq : (resetBlock s).rxq = [] := rfl
@[simp] theorem resetBlock_txs : (resetBlock s).txs = [] := rfl
@[simp] theorem resetBlock_cfg : (resetBlock s).cfg = s.cfg := rfl
@[simp] theorem resetBlock_timerFires : (resetBlock s).timerFires = false := rfl
@[simp] theorem resetBlock_connectOk : (resetBlock s).connectOk = false := rfl
@[simp] theorem resetBlock_interject : (resetBlock s).interject = false := rfl
@[simp] theorem resetBlock_draws : (resetBlock s).draws = s.draws := rfl
@[simp] theorem resetBlock_tick : (resetBlock s).tick = s.tick := rfl
@[simp] theorem resetBlock_hostQ : (resetBlock s).hostQ = s.hostQ := rfl
@[simp] theorem resetBlock_proc : (resetBlock s).proc = s.proc := rfl
@[simp] theorem resetBlock_report : (resetBlock s).report = s.report := rfl
@[simp] theorem resetBlock_rst : (resetBlock s).rst = s.rst := rfl

/-! ### resetWith -/

@[simp] theorem resetWith_conn (c : Params) : (State.resetWith c).conn = Conn.reset := rfl
@[simp] theorem resetWith_phase (c : Params) : (State.resetWith c).phase = .idle := rfl
@[simp] theorem resetWith_dec (c : Params) : (State.resetWith c).dec = Decoder.reset := rfl
@[simp] theorem resetWith_result (c : Params) : (State.resetWith c).result = Result.reset := rfl
@[simp] theorem resetWith_lastError (c : Params) : (State.resetWith c).lastError = none := rfl
@[simp] theorem resetWith_rxq (c : Params) : (State.resetWith c).rxq = [] := rfl
@[simp] theorem resetWith_txs (c : Params) : (State.resetWith c).txs = [] := rfl
@[simp] theorem resetWith_cfg (c : Params) : (State.resetWith c).cfg = c := rfl
@[simp] theorem resetWith_timerFires (c : Params) : (State.resetWith c).timerFires = false := rfl
@[simp] theorem resetWith_connectOk (c : Params) : (State.resetWith c).connectOk = false := rfl
@[simp] theorem resetWith_interject (c : Params) : (State.resetWith c).interject = false := rfl
@[simp] theorem resetWith_draws (c : Params) : (State.resetWith c).draws = [] := rfl
@[simp] theorem resetWith_tick (c : Params) : (State.resetWith c).tick = 0 := rfl
@[simp] theorem resetWith_hostQ (c : Params) : (State.resetWith c).hostQ = [] := rfl
@[simp] theorem resetWith_proc (c : Params) : (State.resetWith c).proc = none := rfl
@[simp] theorem resetWith_report (c : Params) : (State.resetWith c).report = none := rfl
@[simp] theorem resetWith_rst (c : Params) : (State.resetWith c).rst = false := rfl

end Sys2Proof.Machine
end

