-- ==== Sys2Proof/Laws/Ops.lean ====
section
/-! SUPPORT. What each shared operation can do, said once: one lemma for each operation, cited instead of unfolding it. -/

namespace Sys2Proof.Machine

open Config

/-! ### Reads -/

theorem rxRead_cons {s : State} {b : Byte} {rest : List Byte} (h : s.rxq = b :: rest) :
    rxRead s = .byte b { s with rxq := rest } := by simp [rxRead, h]

theorem rxRead_timeout {s : State} (h : s.rxq = []) (ht : s.timerFires = true) : rxRead s = .timeout := by
  simp [rxRead, h, ht]

theorem rxRead_hold {s : State} (h : s.rxq = []) (ht : s.timerFires = false) : rxRead s = .hold := by
  simp [rxRead, h, ht]

/-! ### Commands in general -/

theorem atStep_idle {self : Instr} {s : State} {body : CmdStep → Out} (h : s.phase = .idle) :
    atStep self s body = .next (accept self s) := by simp [atStep, h]

theorem atStep_busy {self : Instr} {s : State} {st : CmdStep} {body : CmdStep → Out} (h : s.phase = .busy self st) :
    atStep self s body = body st := by simp [atStep, h]

theorem atStep_other {self c : Instr} {s : State} {st : CmdStep} {body : CmdStep → Out} (h : s.phase = .busy c st) (hc : c ≠ self) :
    atStep self s body = .refused .commandWhileBusy := by simp [atStep, h, hc]

/-- A command that answers a next state was accepted, or ran the next of its own steps. -/
theorem atStep_cases {self : Instr} {s t : State} {body : CmdStep → Out} (h : atStep self s body = .next t) :
    (s.phase = .idle ∧ t = accept self s) ∨ ∃ st, s.phase = .busy self st ∧ body st = .next t := by
  unfold atStep at h
  split at h
  next hp => exact .inl ⟨hp, by simpa using h.symm⟩
  next c st hp =>
    split at h
    next hc => exact .inr ⟨st, hc ▸ hp, h⟩
    next => simp at h

/-- The validation step refuses bad arguments, then a closed connection, and else goes on. -/
theorem validateStep_cases {self : Instr} {fail : Status → Result} {nxt : CmdStep} {s t : State}
    (h : validateStep self fail nxt s = .next t) :
    (argsOk s.cfg self = false ∧ t = finish (fail .invalidArgument) s) ∨
    (argsOk s.cfg self = true ∧ s.conn.opened = false ∧ t = finish (fail .connectionError) s) ∨
    (argsOk s.cfg self = true ∧ s.conn.opened = true ∧ t = goto self nxt s) := by
  unfold validateStep at h
  split at h
  next ha => exact .inl ⟨ha, by simpa using h.symm⟩
  next ha =>
    split at h
    next ho => exact .inr (.inl ⟨by simpa using ha, ho, by simpa using h.symm⟩)
    next ho => exact .inr (.inr ⟨by simpa using ha, by simpa using ho, by simpa using h.symm⟩)

theorem validateStep_next (self : Instr) (fail : Status → Result) (nxt : CmdStep) (s : State) :
    ∃ t, validateStep self fail nxt s = .next t := by
  unfold validateStep; split
  · exact ⟨_, rfl⟩
  · split <;> exact ⟨_, rfl⟩

/-- A decoder step holds, times out, or consumes one byte, which moves the decoder or ends the decode. -/
theorem decodeStep_cases {self : Instr} {fin : State → Status → Option Byte → List Byte → Result} {s t : State}
    (h : decodeStep self fin s = .next t) :
    (s.rxq = [] ∧ s.timerFires = false ∧ t = s) ∨
    (s.rxq = [] ∧ s.timerFires = true ∧ t = finish (fin s .readTimeout none []) s) ∨
    ∃ b rest, s.rxq = b :: rest ∧
      ((∃ d, decoderByte s.dec b = .more d ∧
          t = { s with rxq := rest, dec := d, lastError := lastErrorAfter s.dec b s.lastError }) ∨
       (∃ e ps, decoderByte s.dec b = .success e ps ∧ t = goto self (.finish (some e) ps) { s with rxq := rest }) ∨
       (decoderByte s.dec b = .checksumError ∧
          t = finish (fin { s with rxq := rest } .checksumError none []) { s with rxq := rest })) := by
  rcases hq : s.rxq with _ | ⟨b, rest⟩
  · cases ht : s.timerFires
    · rw [decodeStep, rxRead_hold hq ht] at h
      exact .inl ⟨rfl, rfl, by simpa using h.symm⟩
    · rw [decodeStep, rxRead_timeout hq ht] at h
      exact .inr (.inl ⟨rfl, rfl, by simpa using h.symm⟩)
  · rw [decodeStep, rxRead_cons hq] at h
    refine .inr (.inr ⟨b, rest, rfl, ?_⟩)
    rcases hd : decoderByte s.dec b with d | ⟨e, ps⟩ | _ | r <;> simp only [hd] at h
    · exact .inl ⟨d, rfl, by simpa using h.symm⟩
    · exact .inr (.inl ⟨e, ps, rfl, by simpa using h.symm⟩)
    · exact .inr (.inr ⟨rfl, by simpa using h.symm⟩)
    · simp at h

/-! ### The shared step sequences -/

section exchange_steps

variable {self : Instr} {fin : State → Status → Option Byte → List Byte → Result} {s : State}

theorem exchange_idle (h : s.phase = .idle) : exchange self fin s = .next (accept self s) := atStep_idle h

theorem exchange_validate (h : s.phase = .busy self .validate) :
    exchange self fin s = validateStep self (fun e => fin s e none []) .flush s := atStep_busy h

theorem exchange_flush (h : s.phase = .busy self .flush) : exchange self fin s = .next (goto self .send (rxFlush s)) :=
  atStep_busy h

theorem exchange_send (h : s.phase = .busy self .send) :
    exchange self fin s = .next (goto self .decode (startDecode (txSend (sent s.cfg self) s))) := atStep_busy h

theorem exchange_decode (h : s.phase = .busy self .decode) : exchange self fin s = decodeStep self fin s := atStep_busy h

theorem exchange_finish {e : Option Byte} {ps : List Byte} (h : s.phase = .busy self (.finish e ps)) :
    exchange self fin s = .next (finish (fin s .ok e ps) s) := atStep_busy h

theorem transmit_idle (h : s.phase = .idle) : transmit self s = .next (accept self s) := atStep_idle h

theorem transmit_validate (h : s.phase = .busy self .validate) : transmit self s = validateStep self plainResult .send s :=
  atStep_busy h

theorem transmit_send (h : s.phase = .busy self .send) :
    transmit self s = .next (goto self (.finish none []) (txSend (sent s.cfg self) s)) := atStep_busy h

theorem transmit_finish {e : Option Byte} {ps : List Byte} (h : s.phase = .busy self (.finish e ps)) :
    transmit self s = .next (finish (plainResult .ok) s) := atStep_busy h

end exchange_steps

/-- An exchange that answers a next state: accepted, or one of its five steps. -/
theorem exchange_cases {self : Instr} {fin : State → Status → Option Byte → List Byte → Result} {s t : State}
    (h : exchange self fin s = .next t) :
    (s.phase = .idle ∧ t = accept self s) ∨
    (s.phase = .busy self .validate ∧ validateStep self (fun e => fin s e none []) .flush s = .next t) ∨
    (s.phase = .busy self .flush ∧ t = goto self .send (rxFlush s)) ∨
    (s.phase = .busy self .send ∧ t = goto self .decode (startDecode (txSend (sent s.cfg self) s))) ∨
    (s.phase = .busy self .decode ∧ decodeStep self fin s = .next t) ∨
    ∃ e ps, s.phase = .busy self (.finish e ps) ∧ t = finish (fin s .ok e ps) s := by
  rcases atStep_cases h with h | ⟨st, hp, hb⟩
  · exact .inl h
  · cases st <;> simp only [hp, reduceCtorEq] at hb ⊢ <;> simp_all

/-- An instruction that only sends: accepted, or one of its three steps. -/
theorem transmit_cases {self : Instr} {s t : State} (h : transmit self s = .next t) :
    (s.phase = .idle ∧ t = accept self s) ∨
    (s.phase = .busy self .validate ∧ validateStep self plainResult .send s = .next t) ∨
    (s.phase = .busy self .send ∧ t = goto self (.finish none []) (txSend (sent s.cfg self) s)) ∨
    ∃ e ps, s.phase = .busy self (.finish e ps) ∧ t = finish (plainResult .ok) s := by
  rcases atStep_cases h with h | ⟨st, hp, hb⟩
  · exact .inl h
  · cases st <;> simp only [hp, reduceCtorEq] at hb ⊢ <;> simp_all

section transport_steps

variable {port : Port} {baud timeout : Option Nat} {s : State}

theorem openPort_validate_bad (h : s.phase = .busy (.openPort port baud timeout) .validate) (ha : openOk baud timeout = false) :
    execOpenPort port baud timeout s = .next (finish (plainResult .invalidArgument) s) :=
  (atStep_busy h).trans (if_pos ha)

theorem openPort_validate_good (h : s.phase = .busy (.openPort port baud timeout) .validate) (ha : openOk baud timeout = true) :
    execOpenPort port baud timeout s = .next (goto (.openPort port baud timeout) .connect s) :=
  (atStep_busy h).trans (if_neg (by simp [argsOk, ha]))

theorem openPort_connect (h : s.phase = .busy (.openPort port baud timeout) .connect) :
    execOpenPort port baud timeout s = connectStep (.openPort port baud timeout) s := atStep_busy h

theorem openPort_finish {e : Option Byte} {ps : List Byte} (h : s.phase = .busy (.openPort port baud timeout) (.finish e ps)) :
    execOpenPort port baud timeout s =
      .next (finish (plainResult .ok) { s with conn := openedConn port baud timeout }) := atStep_busy h

theorem readByte_validate (h : s.phase = .busy .readByte .validate) :
    execReadByte s = validateStep .readByte plainResult .read s := atStep_busy h

theorem readByte_read (h : s.phase = .busy .readByte .read) : execReadByte s = readStep s := atStep_busy h

theorem readByte_finish {e : Option Byte} {ps : List Byte} (h : s.phase = .busy .readByte (.finish e ps)) :
    execReadByte s = .next (finish (readByteResult ps) s) := atStep_busy h

theorem flushInput_validate (h : s.phase = .busy .flushInput .validate) :
    execFlushInput s = validateStep .flushInput plainResult .flush s := atStep_busy h

theorem flushInput_flush (h : s.phase = .busy .flushInput .flush) :
    execFlushInput s = .next (goto .flushInput (.finish none []) (rxFlush s)) := atStep_busy h

theorem flushInput_finish {e : Option Byte} {ps : List Byte} (h : s.phase = .busy .flushInput (.finish e ps)) :
    execFlushInput s = .next (finish (plainResult .ok) s) := atStep_busy h

theorem validateStep_bad {self : Instr} {fail : Status → Result} {nxt : CmdStep} (ha : argsOk s.cfg self = false) :
    validateStep self fail nxt s = .next (finish (fail .invalidArgument) s) := by simp [validateStep, ha]

theorem validateStep_closed {self : Instr} {fail : Status → Result} {nxt : CmdStep} (ha : argsOk s.cfg self = true)
    (ho : s.conn.opened = false) : validateStep self fail nxt s = .next (finish (fail .connectionError) s) := by
  simp [validateStep, ha, ho]

theorem validateStep_good {self : Instr} {fail : Status → Result} {nxt : CmdStep} (ha : argsOk s.cfg self = true)
    (ho : s.conn.opened = true) : validateStep self fail nxt s = .next (goto self nxt s) := by
  simp [validateStep, ha, ho]

end transport_steps

/-- OPEN: accepted, refused arguments, on to the connect step, a failed or successful connect, or its finish. -/
theorem openPort_cases {port : Port} {baud timeout : Option Nat} {s t : State}
    (h : execOpenPort port baud timeout s = .next t) :
    (s.phase = .idle ∧ t = accept (.openPort port baud timeout) s) ∨
    (s.phase = .busy (.openPort port baud timeout) .validate ∧ openOk baud timeout = false ∧
      t = finish (plainResult .invalidArgument) s) ∨
    (s.phase = .busy (.openPort port baud timeout) .validate ∧ openOk baud timeout = true ∧
      t = goto (.openPort port baud timeout) .connect s) ∨
    (s.phase = .busy (.openPort port baud timeout) .connect ∧ s.connectOk = true ∧
      t = goto (.openPort port baud timeout) (.finish none []) (rxFlush s)) ∨
    (s.phase = .busy (.openPort port baud timeout) .connect ∧ s.connectOk = false ∧
      t = finish (plainResult .connectionError) { rxFlush s with conn := { s.conn with opened := false, port := none } }) ∨
    ∃ e ps, s.phase = .busy (.openPort port baud timeout) (.finish e ps) ∧
      t = finish (plainResult .ok) { s with conn := openedConn port baud timeout } := by
  rcases atStep_cases h with h | ⟨st, hp, hb⟩
  · exact .inl h
  · cases st <;> simp only [argsOk, connectStep] at hb
    case validate => cases ho : openOk baud timeout <;> simp [ho] at hb <;> simp [hp, hb]
    case connect => cases ho : s.connectOk <;> simp [ho] at hb <;> simp [hp, ho, ← hb]
    case finish => simp_all
    all_goals simp at hb

/-- READ_BYTE: accepted, validated, a hold, a timeout, a byte taken, or its finish. -/
theorem readByte_cases {s t : State} (h : execReadByte s = .next t) :
    (s.phase = .idle ∧ t = accept .readByte s) ∨
    (s.phase = .busy .readByte .validate ∧ validateStep .readByte plainResult .read s = .next t) ∨
    (s.phase = .busy .readByte .read ∧ s.rxq = [] ∧ s.timerFires = false ∧ t = s) ∨
    (s.phase = .busy .readByte .read ∧ s.rxq = [] ∧ s.timerFires = true ∧ t = finish (plainResult .readTimeout) s) ∨
    (∃ b rest, s.phase = .busy .readByte .read ∧ s.rxq = b :: rest ∧
      t = goto .readByte (.finish none [b]) { s with rxq := rest }) ∨
    ∃ e ps, s.phase = .busy .readByte (.finish e ps) ∧ t = finish (readByteResult ps) s := by
  rcases atStep_cases h with h | ⟨st, hp, hb⟩
  · exact .inl h
  · cases st <;> simp only [readStep] at hb
    case validate => exact .inr (.inl ⟨hp, hb⟩)
    case read =>
      rcases hq : s.rxq with _ | ⟨b, rest⟩
      · cases ht : s.timerFires
        · rw [rxRead_hold hq ht] at hb
          exact .inr (.inr (.inl ⟨hp, rfl, rfl, by simpa using hb.symm⟩))
        · rw [rxRead_timeout hq ht] at hb
          exact .inr (.inr (.inr (.inl ⟨hp, rfl, rfl, by simpa using hb.symm⟩)))
      · rw [rxRead_cons hq] at hb
        exact .inr (.inr (.inr (.inr (.inl ⟨b, rest, hp, rfl, by simpa using hb.symm⟩))))
    case finish e ps => exact .inr (.inr (.inr (.inr (.inr ⟨e, ps, hp, by simpa using hb.symm⟩))))
    all_goals simp at hb

/-- FLUSH_INPUT: accepted, validated, its flush, or its finish. -/
theorem flushInput_cases {s t : State} (h : execFlushInput s = .next t) :
    (s.phase = .idle ∧ t = accept .flushInput s) ∨
    (s.phase = .busy .flushInput .validate ∧ validateStep .flushInput plainResult .flush s = .next t) ∨
    (s.phase = .busy .flushInput .flush ∧ t = goto .flushInput (.finish none []) (rxFlush s)) ∨
    ∃ e ps, s.phase = .busy .flushInput (.finish e ps) ∧ t = finish (plainResult .ok) s := by
  rcases atStep_cases h with h | ⟨st, hp, hb⟩
  · exact .inl h
  · cases st <;> simp_all

/-- DOWNLOAD: its start, or the next step of the procedure that runs. -/
theorem download_cases {ts : List Transition} {poses : List Pose} {count : Nat} {mode : PlayMode} {s t : State}
    (h : execDownload ts poses count mode s = .next t) :
    s.phase = .idle ∧ ((s.proc = none ∧ t = downloadStart ts poses count mode s) ∨
      ∃ p, s.proc = some p ∧ t = downloadNext p s) := by
  unfold execDownload at h
  split at h
  next => simp at h
  next hp =>
    refine ⟨hp, ?_⟩
    split at h
    next hn => exact .inl ⟨hn, by simpa using h.symm⟩
    next p hs =>
      split at h
      next => exact .inr ⟨p, hs, by simpa using h.symm⟩
      next => simp at h

/-! ### exec, by the groups of Safety.lean -/

/-- Every exchange is the shared step sequence, with its own use of the outcome. -/
theorem exec_of_exchanges {i : Instr} (h : exchanges i = true) (s : State) : exec i s = exchange i (resultOf i) s := by
  cases i <;> first | rfl | cases h

/-- Every instruction that only sends is the shared step sequence. -/
theorem exec_of_transmits {i : Instr} (h : transmits i = true) (s : State) : exec i s = transmit i s := by
  cases i <;> first | rfl | cases h

/-- An instruction is an exchange, only sends, or is one of the four with steps of their own. -/
theorem instr_groups (i : Instr) :
    exchanges i = true ∨ transmits i = true ∨ (∃ port baud timeout, i = .openPort port baud timeout) ∨ i = .readByte ∨
      i = .flushInput ∨ ∃ ts poses count mode, i = .download ts poses count mode := by
  cases i <;> simp [exchanges, transmits]

/-! ### The read in progress -/

/-- A block that is at its `RxRead` is an exchange in its decode or READ_BYTE in its read. -/
theorem reading_cases {s : State} (h : reading s = true) :
    ∃ i, (exchanges i = true ∧ s.phase = .busy i .decode) ∨ (i = .readByte ∧ s.phase = .busy i .read) := by
  unfold reading at h
  split at h <;> simp_all

/-- What enables the Timer: no reset, a read, and RXQ empty after the bus's bytes. -/
theorem readsEmpty_iff {s : State} :
    readsEmpty s = true ↔ s.rst = false ∧ reading s = true ∧ (sample s).rxq = [] := by
  simp [readsEmpty, and_assoc]

/-! ### The step -/

theorem step_of_run {s s' : State} {i : Instr} (hr : s.rst = false) (h : nextAction (sample s) = .run i s') :
    step s = exec i s' := by simp [step, hr, h]

theorem nextAction_busy {s : State} {i : Instr} {st : CmdStep} (h : s.phase = .busy i st) : nextAction s = .run i s := by
  simp [nextAction, h]

/-- What comes next: the command in progress; the procedure; a request's instruction, with that request taken from the host's program;
nothing; or what is no command, refused. -/
theorem nextAction_cases (s : State) :
    (∃ i st, s.phase = .busy i st ∧ nextAction s = .run i s) ∨
    (∃ p, s.phase = .idle ∧ s.proc = some p ∧ nextAction s = .run (.download p.transitions p.poses p.count p.mode) s) ∨
    (∃ r rest i, s.phase = .idle ∧ s.hostQ = r :: rest ∧ decode s.cfg r = .instr i ∧
      (s.proc = none ∨ isHalt i = true) ∧ nextAction s = .run i { s with hostQ := rest }) ∨
    (s.phase = .idle ∧ s.proc = none ∧ s.hostQ = [] ∧ nextAction s = .settle s) ∨
    (∃ r rest, s.phase = .idle ∧ s.hostQ = r :: rest ∧
      (∀ i, decode s.cfg r ≠ .instr i) ∧ nextAction s = .settle (refuseRequest { s with hostQ := rest })) := by
  unfold nextAction
  cases hp : s.phase with
  | busy i st => exact .inl ⟨i, st, rfl, rfl⟩
  | idle =>
    cases hproc : s.proc with
    | some p =>
      simp only []
      split
      next hi =>
        simp only [Bool.and_eq_true, haltRequested] at hi
        obtain ⟨-, hh⟩ := hi
        cases hq : s.hostQ with
        | nil => simp [hq] at hh
        | cons r rest =>
          cases hd : decode s.cfg r with
          | instr i =>
            simp only [hq, hd] at hh
            exact .inr (.inr (.inl ⟨r, rest, i, by simp [fetchRequest, hq, hd, hh, hp, hproc]⟩))
          | unknownTag _ => simp [hq, hd] at hh
          | malformed _ => simp [hq, hd] at hh
      next => exact .inr (.inl ⟨p, by simp⟩)
    | none =>
      cases hq : s.hostQ with
      | nil => exact .inr (.inr (.inr (.inl (by simp [fetchRequest, hq]))))
      | cons r rest =>
        cases hd : decode s.cfg r with
        | instr i => exact .inr (.inr (.inl ⟨r, rest, i, by simp [fetchRequest, hq, hd, hp, hproc]⟩))
        | unknownTag _ => exact .inr (.inr (.inr (.inr ⟨r, rest, by simp [fetchRequest, hq, hd, hp, hproc]⟩)))
        | malformed _ => exact .inr (.inr (.inr (.inr ⟨r, rest, by simp [fetchRequest, hq, hd, hp, hproc]⟩)))

/-! ### Runs -/

/-- A run of one step more, by its last step. -/
theorem run_snoc {M : Host.Core} {n : Nat} {s t u : M.State} (h : M.run n s = .next t) (hs : M.step t = .next u) :
    M.run (n + 1) s = .next u := by
  induction n generalizing s with
  | zero => simp only [Host.Core.run, Host.Outcome.next.injEq] at h; subst h; simp only [Host.Core.run, hs]
  | succ n ih =>
    rw [Host.Core.run] at h ⊢
    cases he : M.step s with
    | next s' => simp only [he] at h ⊢; exact ih h
    | fault r => simp [he] at h
    | refused r => simp [he] at h

end Sys2Proof.Machine
end

