-- ==== Sys2Proof/Laws/PerInstr.lean ====
section
/-! SUPPORT. Per instruction: the code that spec/opcode_table.json gives the instruction's row stands where the row says it stands. -/

namespace Sys2Proof.Laws.TableCode

/-- The byte of a request that names its instruction: the tag of a record (R66), byte 4 of a packet (R45), the raw byte itself (R47); a
command written by a name has none (R67). -/
def codeOf : Request → Option Byte
  | .record tag _ => some tag
  | .packet bytes => bytes[4]?
  | .raw b => some b
  | .pseudo _ _ => none

/-- The opcode table's `match` column; `n/a` is none. -/
def tableCode : Instr → Option Byte
  | .opReadData _ _ _ => some 0x02
  | .opWriteData _ _ _ => some 0x03
  | .opSyncWrite _ _ _ => some 0x83
  | .opSetPoseSize _ => some 0x07
  | .opLoadPose _ _ => some 0x08
  | .opLoadSeq _ => some 0x09
  | .opPlay => some 0x0A
  | .opLoop => some 0x0B
  | .haltByte => some 0x48
  | .openPort _ _ _ => some 0x01
  | .writeRaw _ => some 0x02
  | .readByte => some 0x03
  | .flushInput => some 0x04
  | .execute _ _ _ => some 0x10
  | .getRegister _ _ _ => some 0x11
  | .setRegister _ _ _ => some 0x12
  | .syncWrite _ _ => some 0x13
  | .setPoseSize _ => none
  | .uploadPose _ _ => none
  | .uploadSequence _ => none
  | .play => none
  | .loop => none
  | .halt => none
  | .download _ _ _ _ => none

/-- In the default configuration an instruction's encoding carries its row's code. -/
def Statement (i : Instr) : Prop := codeOf (encode Config.Params.default i) = tableCode i

theorem opReadData (id start count : Byte) : Statement (.opReadData id start count) := rfl
theorem opWriteData (id start : Byte) (values : List Byte) : Statement (.opWriteData id start values) := rfl
theorem opSyncWrite (start len : Byte) (rows : List Byte) : Statement (.opSyncWrite start len rows) := rfl
theorem opSetPoseSize (n : Byte) : Statement (.opSetPoseSize n) := rfl
theorem opLoadPose (k : Byte) (valueBytes : List Byte) : Statement (.opLoadPose k valueBytes) := rfl
theorem opLoadSeq (stream : List Byte) : Statement (.opLoadSeq stream) := rfl
theorem opPlay : Statement .opPlay := rfl
theorem opLoop : Statement .opLoop := rfl
theorem haltByte : Statement .haltByte := rfl
theorem openPort (port : Port) (baud timeout : Option Nat) : Statement (.openPort port baud timeout) := rfl
theorem writeRaw (bytes : List Byte) : Statement (.writeRaw bytes) := rfl
theorem readByte : Statement .readByte := rfl
theorem flushInput : Statement .flushInput := rfl
theorem execute (id instr : Byte) (params : List Byte) : Statement (.execute id instr params) := rfl
theorem getRegister (id start count : Byte) : Statement (.getRegister id start count) := rfl
theorem setRegister (id start : Byte) (values : List Byte) : Statement (.setRegister id start values) := rfl
theorem syncWrite (start : Byte) (rows : List (List Byte)) : Statement (.syncWrite start rows) := rfl
theorem setPoseSize (n : Byte) : Statement (.setPoseSize n) := rfl
theorem uploadPose (k : Byte) (vals : List Nat) : Statement (.uploadPose k vals) := rfl
theorem uploadSequence (s : List Byte) : Statement (.uploadSequence s) := rfl
theorem play : Statement .play := rfl
theorem loop : Statement .loop := rfl
theorem halt : Statement .halt := rfl
theorem download (transitions : List Transition) (poses : List Pose) (count : Nat) (mode : PlayMode) :
    Statement (.download transitions poses count mode) := rfl

end Sys2Proof.Laws.TableCode
end

