-- ==== Sys2Proof/Tests/Slice0.lean ====
section
/-! SUPPORT. The model's own tests: ill-formed terms, requests written out from the encodings, vectors of spec/95_test_vectors.md in one
step each, and for every statement with hypotheses a state and operands that meet them. -/

namespace Sys2Proof.Tests

open Sys2Proof.Machine Sys2Proof.Config

/-! ### Helpers -/

/-- A block that is open and IDLE, in the default configuration. -/
def opened : State := { State.reset with conn := { opened := true, port := some ⟨0⟩, baud := 1000000, timeout := 500000 } }

/-- The open block at one step of a command. -/
def busy (i : Instr) (st : CmdStep) : State := { opened with phase := .busy i st }

/-- The open block in a decode that has the decoder's registers `d` and the bytes `bs` waiting. -/
def decoding (i : Instr) (d : Decoder) (bs : List Byte) : State := { busy i .decode with dec := d, rxq := bs }

/-- The decoder's registers with every one written. -/
def regs (st : DState) (id len err : Byte) (pbuf : List Byte) : Decoder :=
  { dstate := st, rid := some id, rlen := some len, rerr := some err, pbuf := pbuf }

/-- One part of the next state, if there is a next state. -/
def after {α : Type} (f : State → α) (o : Out) : Option α :=
  match o with
  | .next t => some (f t)
  | .fault _ => none
  | .refused _ => none

/-- TXS after an instruction's send step from an empty TXS. -/
def sends (i : Instr) : Option (List Byte) := after (·.txs) (exec i (busy i .send))

/-- RESULT and readiness after one step of an instruction. -/
def ends (i : Instr) (s : State) : Option (Result × Bool) := after (fun t => (t.result, t.phase == .idle)) (exec i s)

/-- `ends` for a status alone. -/
def plainEnd (st : Status) : Option (Result × Bool) := some ({ status := some st, err := none, data := .bottom }, true)

/-- A draw with the Timer firing. -/
def fires : Draw := { Draw.quiet with timer := true }

/-- A result of EXECUTE's kind (R99). -/
def okBytes (err : Byte) (ps : List Byte) : Option (Result × Bool) :=
  some ({ status := some .ok, err := some err, data := .bytes ps }, true)

/-! ### Ill-formed terms -/

theorem test_wf_target : Instr.wellFormed .default (.opReadData 0 1 1) = false ∧ Instr.wellFormed .default (.opReadData 255 1 1) = false ∧
    Instr.wellFormed .default (.getRegister 0 1 1) = false ∧ Instr.wellFormed .default (.setRegister 255 1 []) = false ∧
    Instr.wellFormed .default (.opWriteData 0 1 []) = false ∧ Instr.wellFormed .default (.execute 255 1 []) = false := by decide

theorem test_wf_length : Instr.wellFormed .default (.opWriteData 1 0 (List.replicate 253 0)) = false ∧
    Instr.wellFormed .default (.opLoadPose 0 (List.replicate 253 0)) = false ∧
    Instr.wellFormed .default (.opLoadSeq (List.replicate 254 0)) = false ∧
    Instr.wellFormed .default (.execute 1 0 (List.replicate 254 0)) = false ∧
    Instr.wellFormed .default (.setRegister 1 0 (List.replicate 253 0)) = false ∧
    Instr.wellFormed .default (.uploadSequence (List.replicate 254 0)) = false := by decide +kernel

theorem test_wf_rows : Instr.wellFormed .default (.opSyncWrite 0 1 []) = false ∧
    Instr.wellFormed .default (.opSyncWrite 0 1 [1, 2, 3]) = false ∧
    Instr.wellFormed .default (.opSyncWrite 0 1 (List.replicate 252 0)) = false ∧
    Instr.wellFormed .default (.syncWrite 0 []) = false ∧ Instr.wellFormed .default (.syncWrite 0 [[]]) = false ∧
    Instr.wellFormed .default (.syncWrite 0 [[1, 2], [3]]) = false ∧
    Instr.wellFormed .default (.syncWrite 0 [List.replicate 252 0]) = false := by decide +kernel

theorem test_wf_open : Instr.wellFormed .default (.openPort ⟨0⟩ (some 0) none) = false ∧
    Instr.wellFormed .default (.openPort ⟨0⟩ none (some 0)) = false := by decide

theorem test_wf_pose : Instr.wellFormed .default (.uploadPose 0 [256]) = false ∧
    Instr.wellFormed .default (.uploadPose 0 (List.replicate 253 0)) = false ∧
    Instr.wellFormed { Params.default with poseBytes := .two } (.uploadPose 0 [65536]) = false ∧
    Instr.wellFormed { Params.default with poseBytes := .two } (.uploadPose 0 (List.replicate 127 0)) = false := by decide +kernel

theorem test_wf_download : Instr.wellFormed .default (.download [⟨⟨0⟩, 0⟩] [] 1 .play) = false ∧
    Instr.wellFormed .default (.download [⟨⟨0⟩, 65536⟩] [] 1 .play) = false ∧
    Instr.wellFormed .default (.download [] [] 256 .play) = false ∧ Instr.wellFormed .default (.download [] [] 1 .other) = false ∧
    Instr.wellFormed .default (.download (List.replicate 84 ⟨⟨0⟩, 1⟩) [] 1 .play) = false := by decide +kernel

/-! ### Requests written out from the encodings (30_encoding.md R45, R47, R66, R67; 95_test_vectors.md tables 2, 4 and 5) -/

theorem test_decode_read_write : decode .default (.packet [0xFF, 0xFF, 0x01, 0x04, 0x02, 0x2B, 0x01, 0xCC]) = .instr (.opReadData 1 0x2B 1) ∧
    decode .default (.packet [0xFF, 0xFF, 0x01, 0x05, 0x03, 0x1E, 0x00, 0x02, 0xD6]) = .instr (.opWriteData 1 0x1E [0, 2]) := by decide

theorem test_decode_sync_write : decode .default
    (.packet [0xFF, 0xFF, 0xFE, 0x0A, 0x83, 0x1E, 0x01, 0x01, 0x10, 0x02, 0x20, 0x03, 0x30, 0xEF]) =
    .instr (.opSyncWrite 0x1E 1 [0x01, 0x10, 0x02, 0x20, 0x03, 0x30]) := by decide

theorem test_decode_board_uploads : decode .default (.packet [0xFF, 0xFF, 0xFD, 0x03, 0x07, 0x03, 0xF5]) = .instr (.opSetPoseSize 3) ∧
    decode .default (.packet [0xFF, 0xFF, 0xFD, 0x06, 0x08, 0x00, 0x10, 0x20, 0x30, 0x94]) = .instr (.opLoadPose 0 [0x10, 0x20, 0x30]) ∧
    decode .default (.packet [0xFF, 0xFF, 0xFD, 0x05, 0x09, 0xFF, 0x00, 0x00, 0xF5]) = .instr (.opLoadSeq [255, 0, 0]) := by decide

theorem test_decode_board_playback : decode .default (.packet [0xFF, 0xFF, 0xFD, 0x02, 0x0A, 0xF6]) = .instr .opPlay ∧
    decode .default (.packet [0xFF, 0xFF, 0xFD, 0x02, 0x0B, 0xF5]) = .instr .opLoop ∧ decode .default (.raw 0x48) = .instr .haltByte := by decide

/-- A packet that none of the eight rows names is the EXECUTE that sends it (table 2 rows 5 and 6; log 5). -/
theorem test_decode_other_packets : decode .default (.packet [0xFF, 0xFF, 0x01, 0x02, 0x01, 0xFB]) = .instr (.execute 1 1 []) ∧
    decode .default (.packet [0xFF, 0xFF, 0xFE, 0x02, 0x00, 0xFF]) = .instr (.execute 254 0 []) := by decide

theorem test_decode_rejects : decode .default (.packet [0xFF, 0xFF, 0x01, 0x02, 0x01]) = .malformed .tooShort ∧
    decode .default (.packet [0xFF, 0xFE, 0x01, 0x02, 0x01, 0xFB]) = .malformed .badHeader ∧
    decode .default (.packet [0xFF, 0xFF, 0x01, 0x03, 0x01, 0xFA]) = .malformed .badLength ∧
    decode .default (.packet [0xFF, 0xFF, 0x01, 0x02, 0x01, 0xFC]) = .malformed .badChecksum := by decide

/-- Table 2 row 13, as packet bytes: the target ids 0 and 255 decode, and their argument check refuses them (R61); a raw byte other than the
halt byte is sent raw (R72). -/
theorem test_decode_bad_targets : decode .default (.packet [0xFF, 0xFF, 0x00, 0x02, 0x02, 0xFB]) = .instr (.execute 0 2 []) ∧
    decode .default (.packet [0xFF, 0xFF, 0xFF, 0x02, 0x02, 0xFC]) = .instr (.execute 255 2 []) ∧
    ends (.opReadData 255 0x2B 1) (busy (.opReadData 255 0x2B 1) .validate) = plainEnd .invalidArgument ∧
    decode .default (.raw 0x49) = .instr (.writeRaw [0x49]) := by decide

/-- Bytes that are no packet are refused with INVALID_ARGUMENT and nothing sent (R61, R124; log 17). -/
theorem test_malformed_packet : after (fun t => (t.result.status, t.hostQ, t.txs))
    (step { opened with hostQ := [.packet [0xFF, 0xFF, 0x01, 0x02, 0x01, 0xFC]], draws := [Draw.quiet] }) =
    some (some .invalidArgument, [], []) := by decide

theorem test_decode_transport : decode .default (.record 0x01 { port := ⟨7⟩, baud := some 57600 }) = .instr (.openPort ⟨7⟩ (some 57600) none) ∧
    decode .default (.record 0x02 { bytes := [0x48] }) = .instr (.writeRaw [0x48]) ∧
    decode .default (.record 0x03 {}) = .instr .readByte ∧ decode .default (.record 0x04 {}) = .instr .flushInput := by decide

theorem test_decode_bus_client : decode .default (.record 0x10 { id := 1, instr := 2, bytes := [3] }) = .instr (.execute 1 2 [3]) ∧
    decode .default (.record 0x11 { id := 1, start := 0x2B, count := 2 }) = .instr (.getRegister 1 0x2B 2) ∧
    decode .default (.record 0x12 { id := 1, start := 0x19, bytes := [1] }) = .instr (.setRegister 1 0x19 [1]) ∧
    decode .default (.record 0x13 { start := 0x1E, rows := [[1, 2]] }) = .instr (.syncWrite 0x1E [[1, 2]]) ∧
    decode .default (.record 0x05 {}) = .unknownTag 0x05 := by decide

theorem test_decode_pseudo : decode .default (.pseudo .setPoseSize { count := 3 }) = .instr (.setPoseSize 3) ∧
    decode .default (.pseudo .uploadPose { count := 1, vals := [2, 3] }) = .instr (.uploadPose 1 [2, 3]) ∧
    decode .default (.pseudo .uploadSequence { bytes := [255, 0, 0] }) = .instr (.uploadSequence [255, 0, 0]) ∧
    decode .default (.pseudo .play {}) = .instr .play ∧ decode .default (.pseudo .loop {}) = .instr .loop ∧
    decode .default (.pseudo .halt {}) = .instr .halt ∧
    decode .default (.pseudo .download { actuators := 3, mode := .loop }) = .instr (.download [] [] 3 .loop) := by decide

/-- The opcode table's bytes (log 7). -/
theorem test_table_words : decodeTableWord 8 0x48 = some .haltByte ∧ decodeTableWord 8 0x04 = some .flushInput ∧
    decodeTableWord 8 0x02 = some (.writeRaw []) ∧ decodeTableWord 8 0x83 = some (.opSyncWrite 0 0 [0]) ∧
    decodeTableWord 8 0x0B = some .opLoop ∧ decodeTableWord 8 0x55 = none := by decide

/-- The next step accepts the table's instruction (R22). -/
theorem test_with_fetch_word :
    after (·.phase) (step ({ opened with draws := [Draw.quiet] }.withFetchWord 8 0x0A)) = some (.busy .opPlay .validate) := by decide

/-! ### What the send steps send (95_test_vectors.md tables 1, 4 and 5) -/

theorem test_op_read_data : sends (.opReadData 1 0x2B 1) = some [0xFF, 0xFF, 0x01, 0x04, 0x02, 0x2B, 0x01, 0xCC] := by decide
theorem test_op_write_data : sends (.opWriteData 1 0x1E [0, 2]) = some [0xFF, 0xFF, 0x01, 0x05, 0x03, 0x1E, 0x00, 0x02, 0xD6] := by decide
theorem test_op_sync_write : sends (.opSyncWrite 0x1E 0 [1, 2, 3]) =
    some [0xFF, 0xFF, 0xFE, 0x07, 0x83, 0x1E, 0x00, 0x01, 0x02, 0x03, 0x53] := by decide
theorem test_op_set_pose_size : sends (.opSetPoseSize 0) = some [0xFF, 0xFF, 0xFD, 0x03, 0x07, 0x00, 0xF8] := by decide
theorem test_op_load_pose : sends (.opLoadPose 1 [0x40, 0x50, 0x60]) =
    some [0xFF, 0xFF, 0xFD, 0x06, 0x08, 0x01, 0x40, 0x50, 0x60, 0x03] := by decide
theorem test_op_load_seq : sends (.opLoadSeq [255, 0, 0]) = some [0xFF, 0xFF, 0xFD, 0x05, 0x09, 0xFF, 0x00, 0x00, 0xF5] := by decide
theorem test_op_play : sends .opPlay = some [0xFF, 0xFF, 0xFD, 0x02, 0x0A, 0xF6] := by decide
theorem test_op_loop : sends .opLoop = some [0xFF, 0xFF, 0xFD, 0x02, 0x0B, 0xF5] := by decide
theorem test_halt_byte : sends .haltByte = some [0x48] := by decide
theorem test_write_raw : sends (.writeRaw [0xFF, 0xFF, 0x01, 0x02, 0x01, 0xFB]) = some [0xFF, 0xFF, 0x01, 0x02, 0x01, 0xFB] := by decide
theorem test_execute : sends (.execute 254 0xFF [0xFF, 0xFF]) = some [0xFF, 0xFF, 0xFE, 0x04, 0xFF, 0xFF, 0xFF, 0x00] := by decide
theorem test_get_register : sends (.getRegister 1 0x2B 2) = some [0xFF, 0xFF, 0x01, 0x04, 0x02, 0x2B, 0x02, 0xCB] := by decide
theorem test_set_register : sends (.setRegister 1 0x19 [1]) = some [0xFF, 0xFF, 0x01, 0x04, 0x03, 0x19, 0x01, 0xDD] := by decide
theorem test_sync_write : sends (.syncWrite 0x1E [[1, 0, 2], [2, 0, 2], [3, 0, 2]]) =
    some [0xFF, 0xFF, 0xFE, 0x0D, 0x83, 0x1E, 0x02, 0x01, 0x00, 0x02, 0x02, 0x00, 0x02, 0x03, 0x00, 0x02, 0x45] := by decide
theorem test_set_pose_size : sends (.setPoseSize 3) = some [0xFF, 0xFF, 0xFD, 0x03, 0x07, 0x03, 0xF5] := by decide
theorem test_upload_pose_one : sends (.uploadPose 0 [0x10, 0x20, 0x30]) =
    some [0xFF, 0xFF, 0xFD, 0x06, 0x08, 0x00, 0x10, 0x20, 0x30, 0x94] := by decide
theorem test_upload_pose_two :
    after (·.txs) (exec (.uploadPose 1 [0x3FF, 0, 0x110])
      { busy (.uploadPose 1 [0x3FF, 0, 0x110]) .send with cfg := { Params.default with poseBytes := .two } }) =
    some [0xFF, 0xFF, 0xFD, 0x09, 0x08, 0x01, 0xFF, 0x03, 0x00, 0x00, 0x10, 0x01, 0xDD] := by decide
theorem test_upload_sequence : sends (.uploadSequence [0x00, 0xF4, 0x01, 0x01, 0x2C, 0x01, 0x00, 0xBC, 0x02, 0xFF, 0x00, 0x00]) =
    some [0xFF, 0xFF, 0xFD, 0x0E, 0x09, 0x00, 0xF4, 0x01, 0x01, 0x2C, 0x01, 0x00, 0xBC, 0x02, 0xFF, 0x00, 0x00, 0x0B] := by decide
theorem test_play : sends .play = some [0xFF, 0xFF, 0xFD, 0x02, 0x0A, 0xF6] := by decide
theorem test_loop : sends .loop = some [0xFF, 0xFF, 0xFD, 0x02, 0x0B, 0xF5] := by decide
theorem test_halt : sends .halt = some [0x48] := by decide

/-! ### How commands end (95_test_vectors.md tables 1, 4 and 5) -/

/-- Table 1 rows 3 to 6. -/
theorem test_open_ends : ends (.openPort ⟨0⟩ (some 0) none) (busy (.openPort ⟨0⟩ (some 0) none) .validate) = plainEnd .invalidArgument ∧
    after (fun t => (t.conn, t.rxq, t.result.status)) (exec (.openPort ⟨1⟩ (some 57600) (some 100000))
      { busy (.openPort ⟨1⟩ (some 57600) (some 100000)) .connect with connectOk := false, rxq := [1] }) =
    some ({ opened := false, port := none, baud := 1000000, timeout := 500000 }, [], some .connectionError) := by decide

theorem test_open_ok : after (fun t => (t.conn, t.result.status)) (exec (.openPort ⟨1⟩ (some 57600) (some 100000))
      (busy (.openPort ⟨1⟩ (some 57600) (some 100000)) (.finish none []))) =
    some ({ opened := true, port := some ⟨1⟩, baud := 57600, timeout := 100000 }, some .ok) := by decide

theorem test_write_raw_closed : ends (.writeRaw [0x48]) { State.reset with phase := .busy (.writeRaw [0x48]) .validate } =
    plainEnd .connectionError := by decide

/-- Table 1 rows 9 and 10. -/
theorem test_read_byte : after (·.rxq) (exec .readByte { busy .readByte .read with rxq := [0x20, 0xDB] }) = some [0xDB] ∧
    ends .readByte (busy .readByte (.finish none [0x20])) = some ({ status := some .ok, err := none, data := .byte 0x20 }, true) ∧
    ends .readByte { busy .readByte .read with timerFires := true } = plainEnd .readTimeout := by decide

theorem test_flush_input : after (·.rxq) (exec .flushInput { busy .flushInput .flush with rxq := [1, 2] }) = some [] ∧
    ends .flushInput (busy .flushInput (.finish none [])) = plainEnd .ok := by decide

/-- Table 4 rows 1, 3 and 4. -/
theorem test_get_register_ends : ends (.getRegister 1 0x2B 1) (busy (.getRegister 1 0x2B 1) (.finish (some 0) [0x20])) =
      some ({ status := some .ok, err := some 0, data := .byte 0x20 }, true) ∧
    ends (.getRegister 1 0x2B 1) (busy (.getRegister 1 0x2B 1) (.finish (some 0) [])) =
      some ({ status := some .ok, err := some 0, data := .fail }, true) ∧
    ends (.getRegister 1 0x2B 2) (busy (.getRegister 1 0x2B 2) (.finish (some 0) [0x20])) = okBytes 0 [0x20] := by decide

/-- Table 4 rows 8 and 10: the stale latch after a timeout, and the unvalidated error byte after a bad checksum. -/
theorem test_set_register_ends : ends (.setRegister 1 0x19 [1])
      { busy (.setRegister 1 0x19 [1]) .decode with timerFires := true, lastError := some 0x24 } =
      some ({ status := some .readTimeout, err := some 0x24, data := .bottom }, true) ∧
    ends (.setRegister 1 0x19 [1])
      { decoding (.setRegister 1 0x19 [1]) (regs .readChecksum 1 2 0x20 []) [0xD8] with lastError := some 0x20 } =
      some ({ status := some .checksumError, err := some 0x20, data := .bottom }, true) := by decide

/-- Table 4 rows 13, 17 and 22: the argument checks come first. -/
theorem test_bad_arguments : ends (.execute 0 2 []) (busy (.execute 0 2 []) .validate) = plainEnd .invalidArgument ∧
    ends (.syncWrite 0x1E [[1, 2], []]) (busy (.syncWrite 0x1E [[1, 2], []]) .validate) = plainEnd .invalidArgument ∧
    ends (.syncWrite 0x1E []) { State.reset with phase := .busy (.syncWrite 0x1E []) .validate } = plainEnd .invalidArgument ∧
    ends (.uploadPose 0 [256]) (busy (.uploadPose 0 [256]) .validate) = plainEnd .invalidArgument := by decide

/-- Table 4 row 21: a closed block. -/
theorem test_closed_registers : ends (.getRegister 1 0x2B 1) { State.reset with phase := .busy (.getRegister 1 0x2B 1) .validate } =
      some ({ status := some .connectionError, err := none, data := .fail }, true) ∧
    ends (.setRegister 1 0x19 [1]) { State.reset with phase := .busy (.setRegister 1 0x19 [1]) .validate, lastError := some 7 } =
      some ({ status := some .connectionError, err := some 7, data := .bottom }, true) := by decide

/-- Table 5 rows 1 and 12. -/
theorem test_board_answer : ends (.setPoseSize 3) (busy (.setPoseSize 3) (.finish (some 0) [])) = okBytes 0 [] ∧
    ends .play { busy .play .decode with timerFires := true } = plainEnd .readTimeout := by decide

/-- 44_sequence_download.md R117, R118: the first step of a valid DOWNLOAD, and of one with a duration of 0. -/
theorem test_download_start : after (fun t => t.proc.map (·.todo)) (exec (.download [] [] 3 .loop) opened) =
      some (some [.setPoseSize 3, .uploadSequence [255, 0, 0], .loop]) ∧
    after (·.report) (exec (.download [⟨⟨0⟩, 0⟩] [⟨⟨0⟩, [1]⟩] 1 .play) opened) = some (some .invalidArgument) := by decide

/-! ### The decoder over byte lists (95_test_vectors.md table 3) -/

/-- Rows 1, 9, 15 and 23. -/
theorem test_decoder_success :
    feed Decoder.reset [0xFF, 0x00, 0xFF, 0xFF, 0x01, 0x03, 0x00, 0x20, 0xDB] =
      .success 0 [0x20] (regs .readChecksum 1 3 0 [0x20]) [] ∧
    feed Decoder.reset [0xFF, 0xFF, 0x01, 0x04, 0x00, 0xFF, 0xFF, 0xFC] =
      .success 0 [0xFF, 0xFF] (regs .readChecksum 1 4 0 [0xFF, 0xFF]) [] ∧
    feed Decoder.reset [0xFF, 0xFF, 0x01, 0x02, 0x00, 0xFC, 0xAA, 0xBB] =
      .success 0 [] (regs .readChecksum 1 2 0 []) [0xAA, 0xBB] := by decide

/-- Rows 6, 14 and 16. -/
theorem test_decoder_failures :
    feed Decoder.reset [0xFF, 0xFF, 0x01, 0x03, 0x24, 0x20, 0x00] = .checksumError (regs .readChecksum 1 3 0x24 [0x20]) [] ∧
    feed Decoder.reset [0xFF, 0xFF, 0xFF, 0x01, 0x04, 0x00, 0xFF, 0xFF, 0xFC] =
      .running { Decoder.reset with dstate := .readLength, rid := some 0xFC } ∧
    feed Decoder.reset [0xFF, 0xFF, 0x01, 0x00, 0x24, 0x05, 0x06, 0x07] = .running (regs .readParams 1 0 0x24 [5, 6, 7]) := by decide

/-! ### Witnesses: for each statement of Obligations.lean with hypotheses, a state and operands that meet them, clause by clause, at the
ends of their ranges -/

/-- The answer `FF FF 01 03 00 20 DB` of table 3 row 1. -/
def answer : List Byte := [0xFF, 0xFF, 0x01, 0x03, 0x00, 0x20, 0xDB]

/-- A running DOWNLOAD with `todo` still to issue. -/
def proc (todo : List Instr) (waiting : Bool) : Proc :=
  { transitions := [], poses := [], count := 3, mode := .loop, todo := todo, waiting := waiting }

/-- The open block, IDLE, with that DOWNLOAD running. -/
def downloading (todo : List Instr) (waiting : Bool) : State := { opened with proc := some (proc todo waiting) }

theorem witness_ResetGivesTheSpecsValues : { busy .play .decode with rst := true }.rst = true := rfl

theorem witness_StepRunsTheDecodedInstruction :
    (opened.rst = false ∧ opened.phase = .idle ∧ opened.proc = none ∧ decode opened.cfg (.record 0x03 {}) = .instr .readByte) ∧
    ((busy .readByte .read).rst = false ∧ (busy .readByte .read).phase = .busy .readByte .read) ∧ opened.hostQ = [] := by decide

theorem witness_StepRunsTheDownloadOrAHaltBetweenItsCommands :
    (downloading [] true).proc = some (proc [] true) ∧ (downloading [] true).phase = .idle ∧ (proc [] true).waiting = true ∧
    (sample { downloading [.loop] false with draws := [{ Draw.quiet with interject := true }], hostQ := [.raw 0x48] }).interject = true ∧
    (proc [.loop] false).waiting = false ∧ decode Params.default (.raw 0x48) = .instr .haltByte ∧ isHalt .haltByte = true := by decide

theorem witness_BusAppendsOnlyWhileOpen : opened.conn.opened = true ∧ State.reset.conn.opened = false ∧
    (sample { opened with rxq := [1], draws := [{ Draw.quiet with bus := [2, 3] }] }).rxq = [1, 2, 3] ∧
    (sample { State.reset with draws := [{ Draw.quiet with bus := [2, 3] }] }).rxq = [] := by decide

theorem witness_CommandTagsAndUnknownTags : (0x00 : Byte) ∉ ([0x01, 0x02, 0x03, 0x04, 0x10, 0x11, 0x12, 0x13] : List Byte) ∧
    (0x05 : Byte) ∉ ([0x01, 0x02, 0x03, 0x04, 0x10, 0x11, 0x12, 0x13] : List Byte) ∧
    (0x14 : Byte) ∉ ([0x01, 0x02, 0x03, 0x04, 0x10, 0x11, 0x12, 0x13] : List Byte) ∧
    after (fun t => (t.result.status, t.hostQ)) (step { opened with hostQ := [.record 0x05 {}], draws := [Draw.quiet] }) =
      some (some .invalidArgument, []) := by decide

theorem witness_CommandsAreAcceptedOnlyWhenIdle : isDownload .play = false ∧ opened.phase = .idle ∧
    (busy .play .flush).phase = .busy .play .flush ∧ Instr.play ≠ Instr.loop ∧
    after (fun t => t.phase == .idle) (exec .play (busy .play .flush)) = some false := by decide

theorem witness_DecodeOfEncodeIsTheInstruction : Params.default.distinct ∧ Instr.wellFormed .default (.opReadData 254 255 255) = true ∧
    Instr.wellFormed .default (.opWriteData 1 0 (List.replicate 252 0)) = true ∧
    Instr.wellFormed .default (.opSyncWrite 0 0 (List.replicate 251 1)) = true ∧
    Instr.wellFormed .default (.execute 1 0 (List.replicate 253 255)) = true ∧
    Instr.wellFormed .default (.download (List.replicate 83 ⟨⟨0⟩, 65535⟩) [] 255 .loop) = true := by decide +kernel

/-- A configuration in which two opcodes are equal (log 21). -/
def equalOpcodes : Params := { Params.default with opWriteData := Params.default.opReadData }

/-- There the packet of one row is read as another row's, and a host command still as itself. -/
theorem witness_DecodeOfEncodeIsTheInstruction_equal : ¬ equalOpcodes.distinct ∧ framed (.opWriteData 1 0 [7]) = true ∧
    Instr.wellFormed equalOpcodes (.opWriteData 1 0 [7]) = true ∧
    decode equalOpcodes (encode equalOpcodes (.opWriteData 1 0 [7])) = .instr (.opReadData 1 0 7) ∧
    packetOf equalOpcodes (.opReadData 1 0 7) = packetOf equalOpcodes (.opWriteData 1 0 [7]) ∧
    framed (.setRegister 0 0 [7]) = false ∧ framed .haltByte = false ∧ framed (.download [] [] 256 .other) = false := by decide

theorem witness_PacketLayoutAndChecksum : ([] : List Byte).length ≤ 253 ∧ (List.replicate 253 (255 : Byte)).length ≤ 253 := by
  decide +kernel

theorem witness_NonEncodablePacketsAreRefused : encodable 1 [] = true ∧ encodable 254 (List.replicate 253 0) = true ∧
    packetOf Params.default (.execute 0 2 []) = some (0, 2, []) ∧ encodable 0 [] = false ∧ encodable 255 [] = false ∧
    encodable 1 (List.replicate 254 0) = false ∧ (busy (.execute 0 2 []) .validate).phase = .busy (.execute 0 2 []) .validate := by
  decide +kernel

theorem witness_SentBytesAreTheInstructionsPacket : packetOf Params.default .play = some (253, 0x0A, []) ∧
    packetOf Params.default .halt = none ∧ transmits .halt = true ∧ packetOf Params.default (.writeRaw [7]) = none ∧
    transmits (.writeRaw [7]) = true := by decide

theorem witness_DecoderFindsTheHeaderIdAndLength : exchanges .play = true ∧
    (decoding .play Decoder.reset [0xFF]).phase = .busy .play .decode ∧ (decoding .play Decoder.reset [0xFF]).rxq = [0xFF] ∧
    (decoding .play (regs .seekHeader2 0 0 0 []) [0xFE]).dec.dstate = .seekHeader2 ∧
    (decoding .play (regs .readId 0 0 0 []) [0xFE]).dec.dstate = .readId ∧ (0xFE : Byte) ≠ 0xFF ∧
    (decoding .play (regs .readId 0 0 0 []) [0xFF]).dec.dstate = .readId ∧
    (decoding .play (regs .readLength 0 0 0 []) [0xFF]).dec.dstate = .readLength := by decide

theorem witness_DecoderLatchesTheErrorByte : exchanges (.getRegister 1 0 1) = true ∧
    (decoding (.getRegister 1 0 1) (regs .readError 1 2 0 []) [0x24]).dec.rlen = some 2 ∧
    after (fun t => (t.lastError, t.dec.dstate)) (exec (.getRegister 1 0 1) (decoding (.getRegister 1 0 1) (regs .readError 1 2 0 []) [0x24])) =
      some (some 0x24, .readChecksum) ∧
    after (fun t => (t.lastError, t.dec.dstate)) (exec (.getRegister 1 0 1) (decoding (.getRegister 1 0 1) (regs .readError 1 3 0 []) [0xFF])) =
      some (some 0xFF, .readParams) := by decide

theorem witness_DecoderCollectsTheParameters :
    after (fun t => (t.dec.pbuf, t.dec.dstate)) (exec .play (decoding .play (regs .readParams 1 4 0 [0x10]) [0x20])) =
      some ([0x10, 0x20], .readChecksum) ∧
    after (fun t => (t.dec.pbuf, t.dec.dstate)) (exec .play (decoding .play (regs .readParams 1 1 0 []) [0x20])) =
      some ([0x20], .readParams) ∧
    after (fun t => t.dec.pbuf.length) (exec .play (decoding .play (regs .readParams 1 0 0 (List.replicate 253 0)) [0x20])) = some 253 := by
  decide +kernel

theorem witness_DecoderTestsTheChecksum : (1 + 3 + 0 + byteSum [0x20] + 0xDB) % 256 = 255 ∧ (1 + 3 + 0 + byteSum [0x20] + 0xDC) % 256 ≠ 255 ∧
    after (·.phase) (exec .play (decoding .play (regs .readChecksum 1 3 0 [0x20]) [0xDB, 7])) = some (.busy .play (.finish (some 0) [0x20])) ∧
    after (fun t => (t.phase, t.rxq)) (exec .play (decoding .play (regs .readChecksum 1 3 0 [0x20]) [0xDC, 7])) = some (.idle, [7]) := by
  decide

theorem witness_TimeoutEndsTheDecode : { busy .play .decode with timerFires := true }.timerFires = true ∧ (busy .play .decode).rxq = [] ∧
    (busy .play .decode).phase = .busy .play .decode ∧ exchanges .play = true := by decide

theorem witness_ReadsTakeAByteOrHold : (busy .readByte .read).phase = .busy .readByte .read ∧ (busy .readByte .read).rxq = [] ∧
    (busy .readByte .read).timerFires = false ∧
    after (fun t => (t.rxq, t.phase)) (exec .readByte { busy .readByte .read with rxq := [5, 6], timerFires := true }) =
      some ([6], .busy .readByte (.finish none [5])) := by decide

theorem witness_ValidFrame : ValidFrame 0x01 0x00 [0x20] 0xDB ∧ ValidFrame 0x00 0x00 [] 0xFD ∧
    ValidFrame 0xFE 0xFF (List.replicate 253 255) 0x00 := by
  refine ⟨⟨by decide, by decide, by decide⟩, ⟨by decide, by decide, by decide⟩, ⟨by decide, by decide +kernel, by decide +kernel⟩⟩

theorem witness_DecoderResynchronisesAtTheHeader : Decoder.reset.dstate = .seekHeader1 ∧ (∀ b ∈ ([] : List Byte), b ≠ 0xFF) ∧
    (∀ b ∈ ([0x00, 0xFE] : List Byte), b ≠ 0xFF) ∧ (0xFE : Byte) ≠ 0xFF := by decide

theorem witness_LeadingHeaderBytesCountModuloThree : Decoder.reset.dstate = .seekHeader1 ∧ (0xFE : Byte) ≠ 0xFF ∧ 0 % 3 = 0 ∧ 4 % 3 = 1 ∧
    8 % 3 = 2 ∧ 6 % 3 ≠ 2 := by decide

theorem witness_RoundTripThroughTheDecoder : exchanges (.execute 1 2 [0x2B, 1]) = true ∧ encodable 1 [0x2B, 1] = true ∧
    encodable 254 [] = true ∧
    (decoding (.execute 1 2 [0x2B, 1]) Decoder.reset (packet 1 2 [0x2B, 1])).rxq = packet 1 2 [0x2B, 1] ∧
    (decoding (.execute 1 2 [0x2B, 1]) Decoder.reset (packet 1 2 [0x2B, 1])).phase = .busy (.execute 1 2 [0x2B, 1]) .decode := by decide

theorem witness_CorruptedFramesAreDetected : (0xDC : Byte) ≠ 0xDB ∧ (0x01 : Byte) ≠ 0x00 ∧ ([0x20] : List Byte)[0]? = some 0x20 ∧
    (0x21 : Byte) ≠ 0x20 := by decide

theorem witness_ChecksumStateHoldsTheDeclaredLength :
    decoderByte (regs .readError 1 2 0 []) 0 = .more (regs .readChecksum 1 2 0 []) ∧
    decoderByte (regs .readParams 1 255 0 (List.replicate 252 0)) 0 = .more (regs .readChecksum 1 255 0 (List.replicate 253 0)) := by
  decide +kernel

theorem witness_StaleDecoderRegistersAreNeverRead : Decoder.reset.dstate = .seekHeader1 ∧ (regs .seekHeader1 9 0 9 [9]).dstate = .seekHeader1 ∧
    feed (regs .seekHeader1 9 0 9 [9]) answer = feed Decoder.reset answer := by decide

theorem witness_ShortLengthsNeverComplete : (regs .readParams 1 0 0 []).dstate = .readParams ∧ (regs .readParams 1 1 0 []).rlen = some 1 ∧
    (0 : Byte).toNat < 2 ∧ (1 : Byte).toNat < 2 := by decide

theorem witness_OpenValidatesConnectsAndFinishes : (some 0 : Option Nat).getD 1000000 = 0 ∧ (none : Option Nat).getD 1000000 ≠ 0 ∧
    (some 1 : Option Nat).getD 500000 ≠ 0 ∧
    (busy (.openPort ⟨0⟩ none (some 1)) .validate).phase = .busy (.openPort ⟨0⟩ none (some 1)) .validate ∧
    (busy (.openPort ⟨0⟩ none (some 1)) .connect).connectOk = false ∧
    { busy (.openPort ⟨0⟩ none (some 1)) .connect with connectOk := true }.connectOk = true ∧ State.reset.phase = .idle ∧
    (busy (.openPort ⟨0⟩ none (some 1)) (.finish none [])).phase = .busy (.openPort ⟨0⟩ none (some 1)) (.finish none []) := by decide

theorem witness_WriteRawSendsItsBytes : (busy (.writeRaw []) .validate).phase = .busy (.writeRaw []) .validate ∧
    State.reset.conn.opened = false ∧ opened.conn.opened = true ∧ (busy (.writeRaw []) .send).phase = .busy (.writeRaw []) .send ∧
    (busy (.writeRaw []) (.finish none [])).phase = .busy (.writeRaw []) (.finish none []) := by decide

theorem witness_ReadByteReturnsTheOldestByte : (busy .readByte .validate).phase = .busy .readByte .validate ∧
    (busy .readByte .read).rxq = [] ∧ { opened with rxq := [0x20, 0xDB] }.rxq = [0x20, 0xDB] ∧
    (busy .readByte (.finish none [0x20])).phase = .busy .readByte (.finish none [0x20]) ∧ opened.phase = .idle := by decide

theorem witness_FlushInputEmptiesTheQueue : (busy .flushInput .validate).phase = .busy .flushInput .validate ∧
    (busy .flushInput .flush).phase = .busy .flushInput .flush ∧
    (busy .flushInput (.finish none [])).phase = .busy .flushInput (.finish none []) ∧ opened.phase = .idle ∧
    opened.conn.opened = true := by decide

theorem witness_ArgumentsAreCheckedThenTheConnection : isDownload (.execute 0 0 []) = false ∧
    (busy (.execute 0 0 []) .validate).phase = .busy (.execute 0 0 []) .validate ∧ argsOk Params.default (.execute 0 0 []) = false ∧
    argsOk Params.default (.execute 1 0 []) = true ∧ isOpen (.execute 1 0 []) = false ∧ State.reset.conn.opened = false := by decide

theorem witness_ExchangesFlushThenSendThenDecode : exchanges (.opLoadPose 0 []) = true ∧ argsOk Params.default (.opLoadPose 0 []) = true ∧
    (busy (.opLoadPose 0 []) .flush).phase = .busy (.opLoadPose 0 []) .flush ∧
    (busy (.opLoadPose 0 []) .send).phase = .busy (.opLoadPose 0 []) .send ∧ opened.phase = .idle ∧ opened.conn.opened = true := by decide

theorem witness_ExecuteRunsItsSteps : (253 < (List.replicate 254 (0 : Byte)).length) ∧ ((List.replicate 253 (0 : Byte)).length ≤ 253) ∧
    (1 : Byte) ≠ 0 ∧ (254 : Byte) ≠ 255 ∧ (busy (.execute 1 2 []) .flush).phase = .busy (.execute 1 2 []) .flush ∧
    decoderByte (regs .readChecksum 1 3 0 [0x20]) 0xDB = .success 0 [0x20] ∧
    decoderByte (regs .readChecksum 1 3 0 [0x20]) 0xDC = .checksumError ∧ (busy (.execute 1 2 []) .decode).rxq = [] ∧
    { busy (.execute 1 2 []) .decode with timerFires := true }.timerFires = true := by decide +kernel

theorem witness_ExecuteLikeInstructionsFinish : executeLike .opPlay = true ∧
    (busy .opPlay (.finish (some 0) [])).phase = .busy .opPlay (.finish (some 0) []) ∧
    (decoding .opPlay (regs .readChecksum 1 2 0 []) [0]).dec = regs .readChecksum 1 2 0 [] ∧
    decoderByte (regs .readChecksum 1 2 0 []) 0 = .checksumError ∧ argsOk Params.default .opPlay = true ∧
    executeLike (.execute 0 0 []) = true ∧ argsOk Params.default (.execute 0 0 []) = false := by decide

theorem witness_GetRegisterReturnsTheValueOrFail : (busy (.getRegister 1 0x2B 1) (.finish (some 0) [0x20])).phase =
      .busy (.getRegister 1 0x2B 1) (.finish (some 0) [0x20]) ∧ (0 : Byte) ≠ 1 ∧ (2 : Byte) ≠ 1 ∧ (1 : Byte) ≠ 0 ∧ (254 : Byte) ≠ 255 ∧
    (busy (.getRegister 0 0x2B 1) .validate).phase = .busy (.getRegister 0 0x2B 1) .validate ∧ opened.conn.opened = true := by decide

theorem witness_SetRegisterReportsTheLatchedError : (List.replicate 252 (0 : Byte)).length ≤ 252 ∧ 252 < (List.replicate 253 (0 : Byte)).length ∧
    (busy (.setRegister 1 0 []) (.finish (some 0) [])).phase = .busy (.setRegister 1 0 []) (.finish (some 0) []) ∧
    (busy (.setRegister 255 0 []) .validate).phase = .busy (.setRegister 255 0 []) .validate := by decide +kernel

theorem witness_SyncWriteChecksItsRowsAndBroadcasts : (∃ r ∈ ([[1], []] : List (List Byte)), r.length = 0) ∧
    (∃ r ∈ ([[1], [1, 2]] : List (List Byte)), r.length ≠ (([[1], [1, 2]] : List (List Byte)).headD []).length) ∧
    253 < 2 + (List.replicate 252 [(0 : Byte)]).flatten.length ∧ 2 + (List.replicate 251 [(0 : Byte)]).flatten.length ≤ 253 ∧
    (∀ r ∈ ([[1], [2]] : List (List Byte)), r.length ≠ 0 ∧ r.length = (([[1], [2]] : List (List Byte)).headD []).length) ∧
    (busy (.syncWrite 0 [[1], [2]]) .send).phase = .busy (.syncWrite 0 [[1], [2]]) .send := by decide +kernel

theorem witness_SyncWriteLengthAndChecksum : syncOk 0x1E [[1, 0x10], [2, 0x20], [3, 0x30]] = true ∧
    syncOk 0 (List.replicate 251 [0]) = true := by decide +kernel

theorem witness_TransmittingInstructionsSendAndFinish : transmits (.opSyncWrite 0 0 [1]) = true ∧
    argsOk Params.default (.opSyncWrite 0 0 [1]) = true ∧ transmits .halt = true ∧ argsOk Params.default .halt = true ∧
    (busy .halt .send).phase = .busy .halt .send ∧ opened.phase = .idle ∧ opened.conn.opened = true := by decide

theorem witness_ExchangesCompleteOnAValidAnswer : exchanges (.getRegister 1 0x2B 1) = true ∧
    (decoding (.getRegister 1 0x2B 1) Decoder.reset (statusFrame 1 0 [0x20] 0xDB ++ [7])).rxq = statusFrame 1 0 [0x20] 0xDB ++ [7] ∧
    (decoding (.getRegister 1 0x2B 1) Decoder.reset []).dec.dstate = .seekHeader1 ∧ executeLike (.uploadSequence []) = true := by decide

theorem witness_PseudoCommandsActAsTheirExpansions : [0, 255].all (poseFits .one) = true ∧ [65535].all (poseFits .two) = true := by decide

theorem witness_PacketsActAsTheExecuteThatSendsThem : executeLike (.opReadData 0 1 1) = true ∧
    packetOf Params.default (.opReadData 0 1 1) = some (0, 2, [1, 1]) ∧
    argsOk Params.default (.opReadData 0 1 1) = encodable 0 [1, 1] ∧
    argsOk Params.default (.uploadPose 0 [255]) = encodable 253 [0, 255] := by decide

theorem witness_UploadPoseChecksAndLaysOutItsValues : (∃ v ∈ [255, 256], 255 < v) ∧ (∃ v ∈ [65536], 65535 < v) ∧ (∀ v ∈ [0, 255], v ≤ 255) ∧
    (∀ v ∈ [0, 65535], v ≤ 65535) ∧ opened.cfg.poseBytes = .one ∧ { Params.default with poseBytes := .two }.poseBytes = .two ∧
    (busy (.uploadPose 0 [256]) .validate).phase = .busy (.uploadPose 0 [256]) .validate := by decide

theorem witness_DownloadChecksItsInputsFirst : opened.phase = .idle ∧ opened.proc = none ∧
    downloadOk .one [⟨⟨0⟩, 1⟩, ⟨⟨1⟩, 65535⟩] [⟨⟨0⟩, [255]⟩, ⟨⟨1⟩, [0]⟩] 1 .play = true ∧
    downloadOk .one [] [] 252 .loop = true ∧ downloadOk .one [] [] 253 .loop = false ∧ downloadOk .one [] [] 1 .other = false ∧
    downloadOk .one [⟨⟨0⟩, 0⟩] [⟨⟨0⟩, [1]⟩] 1 .play = false ∧
    downloadOk .two (List.replicate 83 ⟨⟨0⟩, 1⟩) [⟨⟨0⟩, []⟩] 0 .play = true := by decide +kernel

theorem witness_DownloadRunsItsCommandsInOrder : (downloading [.loop] true).phase = .idle ∧
    (downloading [.loop] true).proc = some (proc [.loop] true) ∧
    { downloading [] true with result := { status := some .ok, err := none, data := .bottom } }.result.status = some .ok ∧
    (downloading [] true).result.status ≠ some .ok ∧ (proc [] false).todo = [] ∧ (proc [.loop] false).todo = [.loop] := by decide

theorem witness_DownloadPlanFollowsTheAssignment : (assign [⟨⟨5⟩, 1⟩, ⟨⟨4⟩, 1⟩])[1]? = some ⟨4⟩ ∧ lookupPose [⟨⟨4⟩, [7]⟩] ⟨4⟩ = some [7] := by
  decide

theorem witness_PoseIndicesFollowFirstAppearance : (⟨5⟩ : PoseName) ∈ assign [⟨⟨5⟩, 1⟩] ∧ (⟨4⟩ : PoseName) ∉ assign [⟨⟨5⟩, 1⟩] := by decide

theorem witness_TransitionStreamLayout : (∀ n, n ∈ [(⟨5⟩ : PoseName)] → poseIndex [⟨5⟩] n < 256) ∧
    (∀ t ∈ [(⟨⟨5⟩, 65535⟩ : Transition)], t.name ∈ [(⟨5⟩ : PoseName)] ∧ t.duration ≤ 65535) ∧
    [(⟨⟨5⟩, 65535⟩ : Transition)][0]? = some ⟨⟨5⟩, 65535⟩ := by
  refine ⟨fun n hn => ?_, by decide, rfl⟩
  obtain rfl : n = ⟨5⟩ := by simpa using hn
  decide

theorem witness_ExchangeFrame : exchanges .play = true ∧
    after (fun t => (t.txs, t.rxq)) (exec .play { busy .play .send with txs := [1], rxq := [2] }) =
      some ([1, 0xFF, 0xFF, 0xFD, 0x02, 0x0A, 0xF6], [2]) ∧
    after (·.rxq) (exec .play { busy .play .flush with rxq := [2] }) = some [] := by decide

theorem witness_TransmitFrame : transmits .halt = true ∧
    after (fun t => (t.txs, t.rxq, t.lastError)) (exec .halt { busy .halt .send with rxq := [2], lastError := some 3 }) =
      some ([0x48], [2], some 3) := by decide

theorem witness_TransportFrame : isOpen (.openPort ⟨0⟩ none none) = true ∧
    after (·.rxq) (exec .readByte { busy .readByte .read with rxq := [1, 2] }) = some [2] ∧
    after (·.rxq) (exec .flushInput { busy .flushInput .flush with rxq := [1, 2] }) = some [] ∧
    after (·.rxq) (exec (.openPort ⟨0⟩ none none) { busy (.openPort ⟨0⟩ none none) .connect with rxq := [1, 2] }) = some [] := by decide

theorem witness_DownloadFrame : isDownload (.download [] [] 3 .loop) = true ∧
    after (·.phase) (exec (.download [] [] 3 .loop) (downloading [.loop] false)) = some (.busy .loop .validate) ∧
    after (·.result.status) (exec (.download [] [] 256 .loop) opened) = some (some .invalidArgument) := by decide

theorem witness_OnlyOpenWritesTheConnection : State.reset.rst = false ∧
    after (·.conn.opened) (step { State.reset with
      phase := .busy (.openPort ⟨0⟩ none none) (.finish none []), draws := [Draw.quiet] }) = some true := by decide

theorem witness_OnlyTheErrorByteWritesLastError :
    after (·.lastError) (step { decoding .play (regs .readError 1 2 0 []) [0x24] with draws := [Draw.quiet] }) = some (some 0x24) := by decide

theorem witness_TransmitStreamOnlyGrowsBySends :
    after (·.txs) (step { busy .halt .send with txs := [1], draws := [fires] }) = some [1, 0x48] := by decide

theorem witness_ReceiveQueueIsAFifo :
    after (·.rxq) (step { busy .readByte .read with rxq := [1], draws := [{ fires with bus := [2] }] }) = some [2] ∧
    after (·.rxq) (step { busy .play .flush with rxq := [1], draws := [{ fires with bus := [2] }] }) = some [] ∧
    after (·.rxq) (step { opened with rxq := [1], draws := [{ fires with bus := [2] }] }) = some [1, 2] := by decide

/-- States that meet the invariant: IDLE and open; in READ_CHECKSUM with a full PBUF; with a DOWNLOAD running. -/
theorem witness_LegalState : LegalState opened ∧ LegalState (decoding .play (regs .readChecksum 1 255 0 (List.replicate 253 0)) [1]) ∧
    LegalState (downloading [.loop] false) := by
  refine ⟨⟨by decide, by decide, by decide, fun p h => ?_⟩, ⟨by decide +kernel, by decide +kernel, by decide, fun p h => ?_⟩,
    ⟨by decide, by decide, by decide, fun p h => ?_⟩⟩
  · cases h
  · cases h
  · cases h; decide

theorem witness_EveryStepKeepsTheInvariant :
    after (·.phase) (step { opened with hostQ := [.pseudo .play {}], draws := [Draw.quiet] }) = some (.busy .play .validate) := by decide

theorem witness_LegalStatesNeverStop :
    after (·.phase) (step { opened with hostQ := [.packet [0xFF]], draws := [Draw.quiet] }) = some .idle ∧
    after (·.phase) (step { opened with hostQ := [.raw 0x49], draws := [Draw.quiet] }) = some (.busy (.writeRaw [0x49]) .validate) := by decide

/-- A decode into which a reset falls (70_reset_and_hazards.md R140). -/
def resetInDecode : State := { decoding .play (regs .readError 1 2 0 []) [0x24] with draws := [{ Draw.quiet with reset := true }, Draw.quiet] }

theorem witness_LegalStatesNeverStop_reset : LegalState resetInDecode ∧ after (·.rst) (step resetInDecode) = some true ∧
    after (fun t => (t.phase == .busy .play .decode, t.result, t.rst)) (Host.Core.run Sys2Proof.core 1 resetInDecode) =
      some (true, Result.reset, true) ∧
    after (fun t => (t.phase == .idle, t.conn, t.result, t.lastError, t.rst)) (Host.Core.run Sys2Proof.core 2 resetInDecode) =
      some (true, Conn.reset, Result.reset, none, false) :=
  ⟨⟨by decide, by decide, by decide, fun p h => by cases h⟩, by decide, by decide, by decide⟩

theorem witness_SilentReadEndsWhenTheTimerFires :
    { busy .readByte .read with draws := List.replicate 2 Draw.quiet ++ fires :: [] }.draws =
      List.replicate 2 Draw.quiet ++ { Draw.quiet with timer := true } :: [] ∧
    (busy .readByte .read).rst = false ∧ (busy .readByte .read).rxq = [] ∧
    after (·.result.status) (step { busy .readByte .read with draws := [fires] }) = some (some .readTimeout) := by decide

/-- READ_BYTE on a silent line: the Timer lets one step pass and fires in the next. -/
def silentRead : State := { busy .readByte .read with draws := [Draw.quiet, fires] }

/-- The run from `s`, as long as steps answer next states. -/
def runOf (s : State) : Nat → State
  | 0 => s
  | n + 1 =>
    match step (runOf s n) with
    | .next t => t
    | .fault _ => runOf s n
    | .refused _ => runOf s n

theorem runOf_succ {s t : State} {n : Nat} (h : step (runOf s n) = .next t) : runOf s (n + 1) = t := by rw [runOf, h]

/-- IDLE with nothing left for the host to do. -/
def Resting (s : State) : Prop := s.phase = .idle ∧ s.proc = none ∧ s.hostQ = []

theorem resting_step {s : State} (h : Resting s) : ∃ t, step s = .next t ∧ Resting t := by
  obtain ⟨hp, hn, hq⟩ := h
  cases hr : s.rst
  · exact ⟨sample s, by simp [step, hr, nextAction, fetchRequest, hp, hn, hq], by simp [Resting, hp, hn, hq]⟩
  · exact ⟨resetBlock (sample s), by simp [step, hr], by simp [Resting, hn, hq]⟩

theorem silentRead_rests : ∀ n, Resting (runOf silentRead (n + 2))
  | 0 => ⟨rfl, rfl, rfl⟩
  | n + 1 => by
    obtain ⟨t, e, h⟩ := resting_step (silentRead_rests n)
    rw [runOf_succ e]
    exact h

/-- A run in which the Timer is fair: the read of `silentRead` ends, and the block stays IDLE. -/
theorem witness_SilentReadEndsWhenTheTimerFires_fair : IsRun (runOf silentRead) ∧ TimerFair (runOf silentRead) ∧
    reading (runOf silentRead 0) = true ∧ (runOf silentRead 0).rxq = [] ∧ SilentFrom (runOf silentRead) 0 := by
  refine ⟨fun n => ?_, fun n h => ?_, rfl, rfl, fun k _ hk => ?_⟩
  · match n with
    | 0 => rfl
    | 1 => rfl
    | n + 2 =>
      obtain ⟨t, e, -⟩ := resting_step (silentRead_rests n)
      rw [runOf_succ e, e]
  · have hn := (readsEmpty_iff.1 (h (n + 2) (by omega))).2.1
    rw [reading, (silentRead_rests n).1] at hn
    cases hn
  · match k with
    | 0 => exact ⟨rfl, rfl⟩
    | 1 => exact ⟨rfl, rfl⟩
    | k + 2 =>
      have h2 := hk 2 (by omega) (by omega)
      rw [(silentRead_rests 0).1] at h2
      cases h2

end Sys2Proof.Tests
end

section
/-! PROOF. What one atomic step of an instruction can do, said once for all instructions, and what one step of the machine can do. -/

namespace Sys2Proof.Machine

open Config

/-! ### The procedure's steps -/

/-- The registers and inputs that no step of DOWNLOAD writes. -/
@[simp] theorem downloadStart_frame (ts : List Transition) (poses : List Pose) (count : Nat) (mode : PlayMode) (s : State) :
    (downloadStart ts poses count mode s).conn = s.conn ∧ (downloadStart ts poses count mode s).dec = s.dec ∧
    (downloadStart ts poses count mode s).lastError = s.lastError ∧ (downloadStart ts poses count mode s).rxq = s.rxq ∧
    (downloadStart ts poses count mode s).txs = s.txs ∧ (downloadStart ts poses count mode s).cfg = s.cfg := by
  unfold downloadStart
  split <;> exact ⟨rfl, rfl, rfl, rfl, rfl, rfl⟩

/-- A later step of a running DOWNLOAD: it looks at the status of the finished command and goes on or stops, or with none to look at it
reports OK or issues the next command. -/
theorem downloadNext_cases (p : Proc) (s : State) :
    (s.result.status = some .ok ∧ downloadNext p s = { s with proc := some { p with waiting := false } }) ∨
    (s.result.status ≠ some .ok ∧ downloadNext p s = { s with proc := none, report := s.result.status }) ∨
    (p.todo = [] ∧ downloadNext p s = { s with proc := none, report := some .ok }) ∨
    ∃ c rest, p.todo = c :: rest ∧
      downloadNext p s = accept c { s with proc := some { p with todo := rest, waiting := true } } := by
  unfold downloadNext
  split
  next =>
    split
    next h => exact .inl ⟨h, rfl⟩
    next h => exact .inr (.inl ⟨h, rfl⟩)
  next =>
    split
    next h => exact .inr (.inr (.inl ⟨h, rfl⟩))
    next c rest h => exact .inr (.inr (.inr ⟨c, rest, h, rfl⟩))

@[simp] theorem downloadNext_frame (p : Proc) (s : State) :
    (downloadNext p s).conn = s.conn ∧ (downloadNext p s).dec = s.dec ∧ (downloadNext p s).lastError = s.lastError ∧
    (downloadNext p s).rxq = s.rxq ∧ (downloadNext p s).txs = s.txs ∧ (downloadNext p s).cfg = s.cfg ∧
    (downloadNext p s).result = s.result := by
  rcases downloadNext_cases p s with ⟨-, h⟩ | ⟨-, h⟩ | ⟨-, h⟩ | ⟨c, rest, -, h⟩ <;> rw [h] <;>
    exact ⟨rfl, rfl, rfl, rfl, rfl, rfl, rfl⟩

/-! ### One atomic step of an instruction -/

/-- The atomic steps of R29: all that `exec i s` can answer (`exec_move`), with the guard of each. What a failing or finishing command puts
into RESULT is left open. -/
inductive Move (i : Instr) (s : State) : State → Prop
  /-- R22: the command is accepted. -/
  | accept (hi : isDownload i = false) (hp : s.phase = .idle) : Move i s (accept i s)
  /-- R117: DOWNLOAD starts. -/
  | start {ts : List Transition} {poses : List Pose} {count : Nat} {mode : PlayMode} (hi : i = .download ts poses count mode)
      (hp : s.phase = .idle) (hs : s.proc = none) : Move i s (downloadStart ts poses count mode s)
  /-- R118, R119: the running DOWNLOAD goes on. -/
  | proceed {p : Proc} (hi : isDownload i = true) (hp : s.phase = .idle) (hs : s.proc = some p) : Move i s (downloadNext p s)
  /-- R75: the arguments, and but for OPEN the connection, pass the validation step. -/
  | validate {nxt : CmdStep} (hp : s.phase = .busy i .validate) (ha : argsOk s.cfg i = true)
      (hc : (isOpen i || s.conn.opened) = true) (hn : hasStep i nxt = true) (hd : nxt ≠ .decode) : Move i s (goto i nxt s)
  /-- R70: RXQ is flushed. -/
  | flush {nxt : CmdStep} (hp : s.phase = .busy i .flush) (hn : hasStep i nxt = true) (hd : nxt ≠ .decode) :
      Move i s (goto i nxt (rxFlush s))
  /-- R82: an exchange sends its packet and starts its decode. -/
  | sendExchange (hi : exchanges i = true) (hp : s.phase = .busy i .send) :
      Move i s (goto i .decode (startDecode (txSend (sent s.cfg i) s)))
  /-- R72: an instruction that only sends does so. -/
  | sendOnly (hi : transmits i = true) (hp : s.phase = .busy i .send) :
      Move i s (goto i (.finish none []) (txSend (sent s.cfg i) s))
  /-- R69: a read of the empty RXQ holds. -/
  | hold {st : CmdStep} (hp : s.phase = .busy i st) (hq : s.rxq = []) (ht : s.timerFires = false) : Move i s s
  /-- R82: the decoder takes a byte and goes on. -/
  | decodeMore {b : Byte} {rest : List Byte} {d : Decoder} (hi : exchanges i = true) (hp : s.phase = .busy i .decode)
      (hq : s.rxq = b :: rest) (hb : decoderByte s.dec b = .more d) :
      Move i s { s with rxq := rest, dec := d, lastError := lastErrorAfter s.dec b s.lastError }
  /-- R89: the checksum byte ends the decode with a packet. -/
  | decodeSuccess {b e : Byte} {rest ps : List Byte} (hi : exchanges i = true) (hp : s.phase = .busy i .decode)
      (hq : s.rxq = b :: rest) (hb : decoderByte s.dec b = .success e ps) :
      Move i s (goto i (.finish (some e) ps) { s with rxq := rest })
  /-- R89: the checksum byte ends the decode with CHECKSUM_ERROR. -/
  | decodeBad {b : Byte} {rest : List Byte} {r : Result} (hi : exchanges i = true) (hp : s.phase = .busy i .decode)
      (hq : s.rxq = b :: rest) (hb : decoderByte s.dec b = .checksumError) : Move i s (finish r { s with rxq := rest })
  /-- R73: READ_BYTE takes its byte. -/
  | read {b : Byte} {rest : List Byte} (hi : i = .readByte) (hp : s.phase = .busy i .read) (hq : s.rxq = b :: rest) :
      Move i s (goto i (.finish none [b]) { s with rxq := rest })
  /-- R71: CONNECT succeeds. -/
  | connect (hi : isOpen i = true) (hp : s.phase = .busy i .connect) (hc : s.connectOk = true) :
      Move i s (goto i (.finish none []) (rxFlush s))
  /-- R71: CONNECT fails and closes the block. -/
  | connectFails (hi : isOpen i = true) (hp : s.phase = .busy i .connect) (hc : s.connectOk = false) :
      Move i s (finish (plainResult .connectionError)
        { rxFlush s with conn := { s.conn with opened := false, port := none } })
  /-- R71: OPEN's finish writes CONN. -/
  | opened {port : Port} {baud timeout : Option Nat} {e : Option Byte} {ps : List Byte} (hi : i = .openPort port baud timeout)
      (hp : s.phase = .busy i (.finish e ps)) :
      Move i s (finish (plainResult .ok) { s with conn := openedConn port baud timeout })
  /-- R18, R128: the command ends, by a status or at its finish, with only RESULT and PHASE written. -/
  | finish {st : CmdStep} {r : Result} (hp : s.phase = .busy i st) : Move i s (finish r s)

theorem not_isDownload_of_exchanges {i : Instr} (h : exchanges i = true) : isDownload i = false := by
  cases i <;> simp_all [exchanges, isDownload]

theorem not_isDownload_of_transmits {i : Instr} (h : transmits i = true) : isDownload i = false := by
  cases i <;> simp_all [transmits, isDownload]

/-- A validation step that checks the connection is a move, whatever step comes after it. -/
theorem validateStep_move {i : Instr} {fail : Status → Result} {nxt : CmdStep} {s t : State} (hp : s.phase = .busy i .validate)
    (hn : hasStep i nxt = true) (hd : nxt ≠ .decode) (h : validateStep i fail nxt s = .next t) : Move i s t := by
  rcases validateStep_cases h with ⟨-, rfl⟩ | ⟨-, -, rfl⟩ | ⟨ha, ho, rfl⟩
  · exact .finish hp
  · exact .finish hp
  · exact .validate hp ha (by simp [ho]) hn hd

theorem decodeStep_move {i : Instr} {fin : State → Status → Option Byte → List Byte → Result} {s t : State}
    (hi : exchanges i = true) (hp : s.phase = .busy i .decode) (h : decodeStep i fin s = .next t) : Move i s t := by
  rcases decodeStep_cases h with ⟨hq, ht, rfl⟩ | ⟨-, -, rfl⟩ | ⟨b, rest, hq, ⟨d, hb, rfl⟩ | ⟨e, ps, hb, rfl⟩ | ⟨hb, rfl⟩⟩
  · exact .hold hp hq ht
  · exact .finish hp
  · exact .decodeMore hi hp hq hb
  · exact .decodeSuccess hi hp hq hb
  · exact .decodeBad hi hp hq hb

theorem exchange_move {i : Instr} {fin : State → Status → Option Byte → List Byte → Result} {s t : State}
    (hi : exchanges i = true) (h : exchange i fin s = .next t) : Move i s t := by
  rcases exchange_cases h with ⟨hp, rfl⟩ | ⟨hp, hv⟩ | ⟨hp, rfl⟩ | ⟨hp, rfl⟩ | ⟨hp, hd⟩ | ⟨e, ps, hp, rfl⟩
  · exact .accept (not_isDownload_of_exchanges hi) hp
  · exact validateStep_move hp (by simp [hasStep, hi]) (by simp) hv
  · exact .flush hp (by simp [hasStep, hi]) (by simp)
  · exact .sendExchange hi hp
  · exact decodeStep_move hi hp hd
  · exact .finish hp

theorem transmit_move {i : Instr} {s t : State} (hi : transmits i = true) (h : transmit i s = .next t) : Move i s t := by
  rcases transmit_cases h with ⟨hp, rfl⟩ | ⟨hp, hv⟩ | ⟨hp, rfl⟩ | ⟨e, ps, hp, rfl⟩
  · exact .accept (not_isDownload_of_transmits hi) hp
  · exact validateStep_move hp (by simp [hasStep, hi]) (by simp) hv
  · exact .sendOnly hi hp
  · exact .finish hp

theorem openPort_move {port : Port} {baud timeout : Option Nat} {s t : State}
    (h : execOpenPort port baud timeout s = .next t) : Move (.openPort port baud timeout) s t := by
  rcases openPort_cases h with
    ⟨hp, rfl⟩ | ⟨hp, -, rfl⟩ | ⟨hp, ha, rfl⟩ | ⟨hp, hc, rfl⟩ | ⟨hp, hc, rfl⟩ | ⟨e, ps, hp, rfl⟩
  · exact .accept rfl hp
  · exact .finish hp
  · exact .validate hp ha rfl rfl (by simp)
  · exact .connect rfl hp hc
  · exact .connectFails rfl hp hc
  · exact .opened rfl hp

theorem readByte_move {s t : State} (h : execReadByte s = .next t) : Move .readByte s t := by
  rcases readByte_cases h with
    ⟨hp, rfl⟩ | ⟨hp, hv⟩ | ⟨hp, hq, ht, rfl⟩ | ⟨hp, -, -, rfl⟩ | ⟨b, rest, hp, hq, rfl⟩ | ⟨e, ps, hp, rfl⟩
  · exact .accept rfl hp
  · exact validateStep_move hp rfl (by simp) hv
  · exact .hold hp hq ht
  · exact .finish hp
  · exact .read rfl hp hq
  · exact .finish hp

theorem flushInput_move {s t : State} (h : execFlushInput s = .next t) : Move .flushInput s t := by
  rcases flushInput_cases h with ⟨hp, rfl⟩ | ⟨hp, hv⟩ | ⟨hp, rfl⟩ | ⟨e, ps, hp, rfl⟩
  · exact .accept rfl hp
  · exact validateStep_move hp rfl (by simp) hv
  · exact .flush hp rfl (by simp)
  · exact .finish hp

/-- Every next state that an instruction answers is one of the moves. -/
theorem exec_move {i : Instr} {s t : State} (h : exec i s = .next t) : Move i s t := by
  rcases instr_groups i with hi | hi | ⟨port, baud, timeout, rfl⟩ | rfl | rfl | ⟨ts, poses, count, mode, rfl⟩
  · exact exchange_move hi (exec_of_exchanges hi s ▸ h)
  · exact transmit_move hi (exec_of_transmits hi s ▸ h)
  · exact openPort_move h
  · exact readByte_move h
  · exact flushInput_move h
  · obtain ⟨hp, ⟨hs, rfl⟩ | ⟨p, hs, rfl⟩⟩ := download_cases h
    · exact .start rfl hp hs
    · exact .proceed rfl hp hs

/-! ### One step of the machine -/

/-- A step without a reset takes the draws, may take a request from the host's program, and then makes a move, rests, or refuses what is
no command. -/
theorem step_cases {s t : State} (hr : s.rst = false) (h : step s = .next t) :
    ∃ q : List Request, (∃ i, Move i { sample s with hostQ := q } t) ∨ t = { sample s with hostQ := q } ∨
      t = finish (plainResult .invalidArgument) { sample s with hostQ := q } := by
  rcases nextAction_cases (sample s) with
    ⟨i, st, -, ha⟩ | ⟨p, -, -, ha⟩ | ⟨r, rest, i, -, -, -, -, ha⟩ | ⟨-, -, -, ha⟩ | ⟨r, rest, -, -, -, ha⟩
  · exact ⟨_, .inl ⟨i, exec_move (step_of_run hr ha ▸ h)⟩⟩
  · exact ⟨_, .inl ⟨_, exec_move (step_of_run hr ha ▸ h)⟩⟩
  · exact ⟨rest, .inl ⟨i, exec_move (step_of_run hr ha ▸ h)⟩⟩
  · have ht : t = sample s := by simpa [step, hr, ha] using h.symm
    exact ⟨(sample s).hostQ, .inr (.inl ht)⟩
  · exact ⟨rest, .inr (.inr (by simpa [step, hr, ha] using h.symm))⟩

end Sys2Proof.Machine
end

section
/-! PROOF. What the machine's registers keep over one step: CONN (R12), LAST_ERROR (R19), TXS (R21), RXQ (R20), RESULT (R22). -/

namespace Sys2Proof.Machine

open Config

/-! ### Each register over one move -/

variable {i : Instr} {s t : State}

theorem Move.conn_eq_or_isOpen (m : Move i s t) : t.conn = s.conn ∨ (isOpen i = true ∧ ∃ st, s.phase = .busy i st) := by
  cases m
  case connectFails hi hp hc => exact .inr ⟨hi, _, hp⟩
  case opened hi hp => exact .inr ⟨by rw [hi]; rfl, _, hp⟩
  all_goals exact .inl (by simp)

theorem isOpen_iff : isOpen i = true ↔ ∃ port baud timeout, i = .openPort port baud timeout := by
  cases i <;> simp [isOpen]

/-- R76: only an OPEN that ends OK opens a closed connection. -/
theorem Move.opens (m : Move i s t) (hs : s.conn.opened = false) (ht : t.conn.opened = true) :
    ∃ port baud timeout e ps, s.phase = .busy (.openPort port baud timeout) (.finish e ps) ∧ t.result.status = some .ok := by
  cases m
  case opened port baud timeout e ps hi hp => exact ⟨port, baud, timeout, e, ps, hi ▸ hp, rfl⟩
  all_goals simp [hs] at ht

theorem Move.lastError_cases (m : Move i s t) :
    t.lastError = s.lastError ∨
    ∃ b, exchanges i = true ∧ s.phase = .busy i .decode ∧ s.dec.dstate = .readError ∧ s.rxq.head? = some b ∧
      t.lastError = some b := by
  cases m
  case decodeMore b rest d hi hp hq hb =>
    by_cases he : s.dec.dstate = .readError
    · exact .inr ⟨b, hi, hp, he, by simp [hq], by simp [lastErrorAfter, he]⟩
    · exact .inl (by simp [lastErrorAfter, he])
  all_goals exact .inl (by simp)

theorem Move.txs_cases (m : Move i s t) : t.txs = s.txs ∨ (s.phase = .busy i .send ∧ t.txs = s.txs ++ sent s.cfg i) := by
  cases m
  case sendExchange hi hp => exact .inr ⟨hp, rfl⟩
  case sendOnly hi hp => exact .inr ⟨hp, rfl⟩
  all_goals exact .inl (by simp)

theorem Move.rxq_cases (m : Move i s t) :
    t.rxq = s.rxq ∨
    ((s.phase = .busy i .decode ∨ s.phase = .busy i .read) ∧ ∃ b, s.rxq = b :: t.rxq) ∨
    ((s.phase = .busy i .flush ∨ s.phase = .busy i .connect) ∧ t.rxq = []) := by
  cases m
  case flush hp hn hd => exact .inr (.inr ⟨.inl hp, rfl⟩)
  case connect hi hp hc => exact .inr (.inr ⟨.inr hp, rfl⟩)
  case connectFails hi hp hc => exact .inr (.inr ⟨.inr hp, rfl⟩)
  case decodeMore hi hp hq hb => exact .inr (.inl ⟨.inl hp, _, hq⟩)
  case decodeSuccess hi hp hq hb => exact .inr (.inl ⟨.inl hp, _, hq⟩)
  case decodeBad hi hp hq hb => exact .inr (.inl ⟨.inl hp, _, hq⟩)
  case read hi hp hq => exact .inr (.inl ⟨.inr hp, _, hq⟩)
  all_goals exact .inl (by simp)

/-- R22: RESULT changes only where PHASE returns to IDLE. -/
theorem Move.result_eq (m : Move i s t) (ht : t.phase ≠ .idle) : t.result = s.result := by
  cases m
  case start ts poses count mode hi hp hs =>
    unfold downloadStart at ht ⊢
    split at ht
    next ha => rw [if_pos ha]
    next => exact absurd rfl ht
  case decodeBad => exact absurd rfl ht
  case connectFails => exact absurd rfl ht
  case opened => exact absurd rfl ht
  case finish => exact absurd rfl ht
  all_goals simp

/-! ### Acceptance -/

/-- Every instruction but the procedure is a command, with the steps of `atStep`. -/
theorem exec_eq_atStep (hi : isDownload i = false) : ∃ body : State → CmdStep → Out, ∀ s, exec i s = atStep i s (body s) := by
  cases i
  case download => cases hi
  all_goals exact ⟨_, fun _ => rfl⟩

/-- R23: no instruction has a move while another is in progress. -/
theorem exec_of_busy_other {c : Instr} {st : CmdStep} (hp : s.phase = .busy c st) (hc : c ≠ i) :
    exec i s = .refused .commandWhileBusy := by
  cases hi : isDownload i
  · obtain ⟨body, hb⟩ := exec_eq_atStep hi
    rw [hb, atStep_other hp hc]
  · cases i <;> simp [isDownload] at hi
    simp [exec, execDownload, hp]

end Sys2Proof.Machine

open Sys2Proof Sys2Proof.Machine Sys2Proof.Config

/-- Settles O52: of the moves only OPEN's failed connect and its finish write CONN, and only the finish opens it. -/
theorem onlyOpenWritesTheConnection : Obligations.OnlyOpenWritesTheConnection := by
  intro s t hr h
  obtain ⟨q, ⟨i, m⟩ | rfl | rfl⟩ := step_cases hr h
  · refine ⟨fun hne => ?_, fun hs ht => m.opens hs ht⟩
    obtain heq | ⟨hi, st, hp⟩ := m.conn_eq_or_isOpen
    · exact absurd heq hne
    · obtain ⟨port, baud, timeout, rfl⟩ := isOpen_iff.1 hi
      exact ⟨port, baud, timeout, st, hp⟩
  · exact ⟨fun hne => absurd rfl hne, fun hs ht => by simp [hs] at ht⟩
  · exact ⟨fun hne => absurd rfl hne, fun hs ht => by simp [hs] at ht⟩

/-- Settles O53: of the moves only the decoder's next byte writes LAST_ERROR. -/
theorem onlyTheErrorByteWritesLastError : Obligations.OnlyTheErrorByteWritesLastError := by
  intro s t hr h
  obtain ⟨q, ⟨i, m⟩ | rfl | rfl⟩ := step_cases hr h
  · exact m.lastError_cases.imp_right fun ⟨b, hb⟩ => ⟨i, b, hb⟩
  · exact .inl rfl
  · exact .inl rfl

/-- Settles O54: of the moves only the two sends write TXS. -/
theorem transmitStreamOnlyGrowsBySends : Obligations.TransmitStreamOnlyGrowsBySends := by
  intro s t hr h
  obtain ⟨q, ⟨i, m⟩ | rfl | rfl⟩ := step_cases hr h
  · exact m.txs_cases.imp_right fun hi => ⟨i, hi⟩
  · exact .inl rfl
  · exact .inl rfl

/-- Settles O55: by the moves that take a byte and the moves that flush. -/
theorem receiveQueueIsAFifo : Obligations.ReceiveQueueIsAFifo := by
  intro s t hr h
  obtain ⟨q, ⟨i, m⟩ | rfl | rfl⟩ := step_cases hr h
  · exact m.rxq_cases.imp_right (Or.imp (fun hi => ⟨i, hi⟩) (fun hi => ⟨i, hi⟩))
  · exact .inl rfl
  · exact .inl rfl

/-- Settles O6: a command is `atStep`, and RESULT changes only where PHASE returns to IDLE. -/
theorem commandsAreAcceptedOnlyWhenIdle : Obligations.CommandsAreAcceptedOnlyWhenIdle := by
  refine ⟨fun i s hi hp => ?_, fun i c st s hp hc => exec_of_busy_other hp hc, fun i s t h ht => (exec_move h).result_eq ht⟩
  obtain ⟨body, hb⟩ := exec_eq_atStep hi
  rw [hb, atStep_idle hp]
  rfl

/-- Settles O2: what `nextAction` answers in each of the three cases. -/
theorem stepRunsTheDecodedInstruction : Obligations.StepRunsTheDecodedInstruction := by
  refine ⟨fun s r rest i hr hp hproc hq hd => ?_, fun s i st hr hp => step_of_run hr (nextAction_busy hp),
    fun s hr hp hproc hq => ?_⟩
  · exact step_of_run hr (by simp [nextAction, fetchRequest, hp, hproc, hq, hd])
  · simp [step, nextAction, fetchRequest, hr, hp, hproc, hq]

/-- Settles O4: what `sample` leaves in each register. -/
theorem busAppendsOnlyWhileOpen : Obligations.BusAppendsOnlyWhileOpen := by
  intro s
  refine ⟨fun ho => ?_, fun ho => ?_, rfl, rfl, rfl, rfl, rfl, rfl, rfl⟩
  · rw [sample_rxq, if_pos ho]
  · rw [sample_rxq, if_neg (by simp [ho])]
end

section
/-! PROOF. The decoder's registers: the invariant of a running decode (R16, R98), and that a decode reads nothing an earlier one left (R82). -/

namespace Sys2Proof.Machine

open Config

variable {d d' : Decoder} {b e : Byte} {ps bs : List Byte}

/-! ### The invariant of a running decode -/

/-- PBUF below the declared length has room for the next parameter, as a length is a byte. -/
theorem pbufPush_length_of_lt {pb : List Byte} {l : Byte} (h : pb.length + 2 < l.toNat) :
    (pbufPush pb b).length = pb.length + 1 := by
  have := l.isLt
  rw [pbufPush_length (by omega), List.length_append, List.length_singleton]

/-- Every byte that does not end the decode leaves the registers that later rules read written, and READ_PARAMS and READ_CHECKSUM where
the length says. -/
theorem decoderByte_ok (hd : decoderOk d = true) (h : decoderByte d b = .more d') : decoderOk d' = true := by
  rcases d with ⟨st, rid, rlen, rerr, pb⟩
  cases st
  case seekHeader1 =>
    cases h
    split <;> rfl
  case seekHeader2 =>
    cases h
    split <;> rfl
  case readId =>
    by_cases hb : b = headerByte
    · rw [decoderByte, readId, if_neg (by simp [hb])] at h
      cases h
      rfl
    · rw [decoderByte, readId, if_pos hb] at h
      cases h
      simpa [decoderOk] using hb
  case readLength =>
    cases h
    simpa [decoderOk] using hd
  case readError =>
    cases rlen with
    | none => cases h
    | some l =>
      cases h
      by_cases hl : l.toNat = 2
      · simpa [decoderOk, hl] using hd
      · have : l.toNat ≤ 1 ∨ 2 < l.toNat := by omega
        simpa [decoderOk, hl, this] using hd
  case readParams =>
    cases rlen with
    | none => cases h
    | some l =>
      cases h
      simp only [decoderOk, Bool.and_eq_true, Bool.or_eq_true, decide_eq_true_eq] at hd
      obtain ⟨hw, hl⟩ := hd
      by_cases hn : (pbufPush pb b).length + 2 = l.toNat
      · have : 2 ≤ l.toNat := by omega
        simpa [decoderOk, hn, this] using hw
      · have : l.toNat ≤ 1 ∨ (pbufPush pb b).length + 2 < l.toNat := by
          rcases hl with hl | hl
          · omega
          · have := pbufPush_length_of_lt (b := b) hl
            omega
        simpa [decoderOk, hn, this] using hw
  case readChecksum =>
    rcases rid with _ | i <;> rcases rlen with _ | l <;> rcases rerr with _ | e <;> simp [decoderByte, readChecksum] at h
    split at h <;> cases h

/-- A legal decoder never meets ⊥ (R16, R138). -/
theorem decoderByte_ne_bottom (hd : decoderOk d = true) (r : BottomReg) : decoderByte d b ≠ .bottom r := by
  rcases d with ⟨st, rid, rlen, rerr, pb⟩
  cases st
  case readId => simp only [decoderByte, readId]; split <;> simp
  case readError =>
    cases rlen with
    | none => simp [decoderOk] at hd
    | some l => exact nofun
  case readParams =>
    cases rlen with
    | none => simp [decoderOk] at hd
    | some l => exact nofun
  case readChecksum =>
    cases rid <;> cases rlen <;> cases rerr <;> simp [decoderOk] at hd
    simp only [decoderByte, readChecksum]; split <;> simp
  all_goals exact nofun

theorem feed_ne_bottom (hd : decoderOk d = true) (r : BottomReg) : feed d bs ≠ .bottom r := by
  induction bs generalizing d with
  | nil => simp [feed]
  | cons b bs ih =>
    cases hb : decoderByte d b with
    | more d' => simpa [feed, hb] using ih (decoderByte_ok hd hb)
    | success e ps => simp [feed, hb]
    | checksumError => simp [feed, hb]
    | bottom r' => exact absurd hb (decoderByte_ne_bottom hd r')

/-- A decode that ends with a packet returns PBUF as its parameters (R89, R91). -/
theorem decoderByte_success_params (h : decoderByte d b = .success e ps) : ps = d.pbuf := by
  rcases d with ⟨st, rid, rlen, rerr, pb⟩
  cases st
  case readId => simp only [decoderByte, readId] at h; split at h <;> cases h
  case readError => cases rlen <;> cases h
  case readParams => cases rlen <;> cases h
  case readChecksum =>
    cases rid <;> cases rlen <;> cases rerr <;> simp [decoderByte, readChecksum] at h
    split at h <;> cases h
    rfl
  all_goals cases h

/-! ### The registers that a later rule reads -/

/-- The decoder with every register emptied that is written again before a rule reads it (R85 to R87). -/
def liveRegs (d : Decoder) : Decoder :=
  match d.dstate with
  | .seekHeader1 => { d with rid := none, rlen := none, rerr := none, pbuf := [] }
  | .seekHeader2 => { d with rid := none, rlen := none, rerr := none, pbuf := [] }
  | .readId => { d with rid := none, rlen := none, rerr := none, pbuf := [] }
  | .readLength => { d with rlen := none, rerr := none, pbuf := [] }
  | .readError => { d with rerr := none, pbuf := [] }
  | .readParams => d
  | .readChecksum => d

/-- A byte's effect with the next decoder reduced to its live registers. -/
def DecEvent.live : DecEvent → DecEvent
  | .more d => .more (liveRegs d)
  | .success e ps => .success e ps
  | .checksumError => .checksumError
  | .bottom r => .bottom r

/-- A run's outcome with its last decoder reduced to its live registers. -/
def DecodeRun.live : DecodeRun → DecodeRun
  | .running d => .running (liveRegs d)
  | .success e ps d rest => .success e ps (liveRegs d) rest
  | .checksumError d rest => .checksumError (liveRegs d) rest
  | .bottom r => .bottom r

@[simp] theorem liveRegs_dstate (d : Decoder) : (liveRegs d).dstate = d.dstate := by
  rcases d with ⟨st, rid, rlen, rerr, pb⟩
  cases st <;> rfl

theorem liveRegs_seekHeader1 (h : d.dstate = .seekHeader1) : liveRegs d = Decoder.reset := by
  rcases d with ⟨st, rid, rlen, rerr, pb⟩
  cases h
  rfl

/-- What a byte does depends on the live registers only. -/
theorem decoderByte_live (d : Decoder) (b : Byte) : (decoderByte d b).live = (decoderByte (liveRegs d) b).live := by
  rcases d with ⟨st, rid, rlen, rerr, pb⟩
  cases st
  case seekHeader1 => simp only [decoderByte, seekHeader1, liveRegs]; split <;> rfl
  case seekHeader2 => simp only [decoderByte, seekHeader2, liveRegs]; split <;> rfl
  case readId => simp only [decoderByte, readId, liveRegs]; split <;> rfl
  case readError => cases rlen <;> rfl
  all_goals rfl

theorem decoderByte_live_congr (h : liveRegs d = liveRegs d') : (decoderByte d b).live = (decoderByte d' b).live := by
  rw [decoderByte_live d, decoderByte_live d', h]

/-- Decoders that agree on their live registers decode alike, whatever bytes come. -/
theorem feed_live_congr (h : liveRegs d = liveRegs d') : (feed d bs).live = (feed d' bs).live := by
  induction bs generalizing d d' with
  | nil => simp [feed, DecodeRun.live, h]
  | cons b bs ih =>
    have hb := decoderByte_live_congr (b := b) h
    cases h1 : decoderByte d b <;> cases h2 : decoderByte d' b <;> simp [h1, h2, DecEvent.live] at hb
    case more a a' => simpa [feed, h1, h2] using ih hb
    all_goals simp [feed, h1, h2, DecodeRun.live, h, hb]

end Sys2Proof.Machine

open Sys2Proof Sys2Proof.Machine Sys2Proof.Config

/-- Settles O23: in SEEK_HEADER1 no register is live, so the two runs agree on all that is, and neither meets ⊥. -/
theorem staleDecoderRegistersAreNeverRead : Obligations.StaleDecoderRegistersAreNeverRead := by
  intro d d' bs hd hd'
  have hlive : (feed d bs).live = (feed d' bs).live :=
    feed_live_congr (by rw [liveRegs_seekHeader1 hd, liveRegs_seekHeader1 hd'])
  have hok : decoderOk d = true := by rw [decoderOk, hd]
  cases h1 : feed d bs <;> cases h2 : feed d' bs <;> simp [h1, h2, DecodeRun.live] at hlive
  case running a a' => simpa using congrArg Decoder.dstate hlive
  case success => exact ⟨hlive.1, hlive.2.1, hlive.2.2.2⟩
  case checksumError => exact hlive.2
  case bottom => exact absurd h1 (feed_ne_bottom hok _)
end

section
/-! PROOF. The machine's invariant: which operations keep it, that every atomic step and every reset does, and so every step. -/

namespace Sys2Proof.Machine

open Config

/-! ### What the invariant says of PHASE -/

/-- The part of `phaseOk` that a command past its validation step relies on: checked arguments and, but for OPEN, an open connection. -/
def argsAndConnOk (s : State) (i : Instr) : Bool := argsOk s.cfg i && (isOpen i || s.conn.opened)

theorem phaseOk_busy {s : State} {i : Instr} {st : CmdStep} (hp : s.phase = .busy i st) :
    phaseOk s = true ↔ hasStep i st = true ∧ (st = .validate ∨ argsAndConnOk s i = true) ∧ (st = .decode → decoderOk s.dec = true) := by
  simp only [phaseOk, hp, argsAndConnOk, Bool.and_eq_true, Bool.or_eq_true, beq_iff_eq, bne_iff_ne, and_assoc]
  rw [imp_iff_not_or]

theorem hasStep_finish_of_transmits {i : Instr} (h : transmits i = true) : hasStep i (.finish none []) = true := by
  cases i <;> simp_all [transmits, hasStep, exchanges, isDownload]

section operations

variable {s : State}

theorem LegalState.checked {i : Instr} {st : CmdStep} (hs : LegalState s) (hp : s.phase = .busy i st) (hst : st ≠ .validate) :
    argsAndConnOk s i = true :=
  ((phaseOk_busy hp).1 hs.phase).2.1.resolve_left hst

theorem LegalState.decoder {i : Instr} (hs : LegalState s) (hp : s.phase = .busy i .decode) : decoderOk s.dec = true :=
  ((phaseOk_busy hp).1 hs.phase).2.2 rfl

/-! ### The operations that keep it -/

theorem LegalState.sample (hs : LegalState s) : LegalState (sample s) where
  phase := hs.phase
  pbuf := hs.pbuf
  closed ho := by
    have ho : s.conn.opened = false := ho
    rw [sample_rxq, if_neg (by simp [ho]), hs.closed ho]
  todo := hs.todo

theorem LegalState.resetBlock (hs : LegalState s) : LegalState (resetBlock s) :=
  ⟨rfl, Nat.zero_le _, fun _ => rfl, hs.todo⟩

theorem LegalState.setHostQ (hs : LegalState s) (q : List Request) : LegalState { s with hostQ := q } :=
  ⟨hs.phase, hs.pbuf, hs.closed, hs.todo⟩

theorem LegalState.setProc (hs : LegalState s) {p : Option Proc} (r : Option Status)
    (h : ∀ p', p = some p' → p'.todo.all exchanges = true) : LegalState { s with proc := p, report := r } :=
  ⟨hs.phase, hs.pbuf, hs.closed, h⟩

theorem LegalState.finish (hs : LegalState s) (r : Result) : LegalState (finish r s) :=
  ⟨rfl, hs.pbuf, hs.closed, hs.todo⟩

theorem LegalState.accept {i : Instr} (hs : LegalState s) (hi : isDownload i = false) : LegalState (accept i s) :=
  ⟨(phaseOk_busy rfl).2 ⟨by simp [hasStep, hi], .inl rfl, nofun⟩, hs.pbuf, hs.closed, hs.todo⟩

theorem LegalState.goto {i : Instr} {st : CmdStep} (hs : LegalState s) (hst : hasStep i st = true)
    (hc : argsAndConnOk s i = true) (hd : st = .decode → decoderOk s.dec = true) : LegalState (goto i st s) :=
  ⟨(phaseOk_busy rfl).2 ⟨hst, .inr hc, hd⟩, hs.pbuf, hs.closed, hs.todo⟩

theorem LegalState.rxFlush (hs : LegalState s) : LegalState (rxFlush s) :=
  ⟨hs.phase, hs.pbuf, fun _ => rfl, hs.todo⟩

theorem LegalState.txSend (hs : LegalState s) (bs : List Byte) : LegalState (txSend bs s) :=
  ⟨hs.phase, hs.pbuf, hs.closed, hs.todo⟩

theorem LegalState.startDecode (hs : LegalState s) : LegalState (startDecode s) where
  phase := by
    cases hp : s.phase with
    | idle => simp [phaseOk, hp]
    | busy i st =>
      obtain ⟨hst, hc, -⟩ := (phaseOk_busy hp).1 hs.phase
      exact (phaseOk_busy (s := Machine.startDecode s) hp).2 ⟨hst, hc, fun _ => rfl⟩
  pbuf := hs.pbuf
  closed := hs.closed
  todo := hs.todo

theorem LegalState.setDecoder {d : Decoder} (hs : LegalState s) (hd : decoderOk d = true) (hb : d.pbuf.length ≤ pbufCap)
    (l : Option Byte) : LegalState { s with dec := d, lastError := l } where
  phase := by
    cases hp : s.phase with
    | idle => simp [phaseOk]
    | busy i st =>
      obtain ⟨hst, hc, -⟩ := (phaseOk_busy hp).1 hs.phase
      exact (phaseOk_busy rfl).2 ⟨hst, hc, fun _ => hd⟩
  pbuf := hb
  closed := hs.closed
  todo := hs.todo

/-- A byte can only be taken while the connection is open. -/
theorem LegalState.opened_of_cons {b : Byte} {rest : List Byte} (hs : LegalState s) (hq : s.rxq = b :: rest) :
    s.conn.opened = true := by
  by_contra ho
  simp [hs.closed (by simpa using ho)] at hq

theorem LegalState.takeHead {b : Byte} {rest : List Byte} (hs : LegalState s) (hq : s.rxq = b :: rest) :
    LegalState { s with rxq := rest } where
  phase := hs.phase
  pbuf := hs.pbuf
  closed ho := by simp [hs.opened_of_cons hq] at ho
  todo := hs.todo

end operations

/-! ### Every move keeps it -/

theorem uploads_all_exchanges (poses : List Pose) (k : Nat) (ns : List PoseName) : (uploads poses k ns).all exchanges = true := by
  induction ns generalizing k with
  | nil => rfl
  | cons n ns ih => simpa [uploads, exchanges] using ih (k + 1)

/-- R118: the commands of a DOWNLOAD are exchanges. -/
theorem downloadPlan_all_exchanges (ts : List Transition) (poses : List Pose) (count : Nat) (mode : PlayMode) :
    (downloadPlan ts poses count mode).all exchanges = true := by
  have hm : exchanges (startCommand mode) = true := by cases mode <;> rfl
  rw [downloadPlan, List.all_append, List.all_cons, uploads_all_exchanges, List.all_cons, List.all_cons, hm]
  rfl

theorem LegalState.downloadStart {s : State} (hs : LegalState s) (ts : List Transition) (poses : List Pose) (count : Nat)
    (mode : PlayMode) : LegalState (downloadStart ts poses count mode s) := by
  unfold Machine.downloadStart
  split
  · exact hs.setProc none fun p hp => by cases hp; exact downloadPlan_all_exchanges ts poses count mode
  · exact (hs.finish _).setProc _ (hs.finish _).todo

theorem LegalState.downloadNext {s : State} {p : Proc} (hs : LegalState s) (hp : s.proc = some p) :
    LegalState (downloadNext p s) := by
  have htodo := hs.todo p hp
  rcases downloadNext_cases p s with ⟨-, h⟩ | ⟨-, h⟩ | ⟨-, h⟩ | ⟨c, rest, ht, h⟩ <;> rw [h]
  · exact hs.setProc s.report fun p' hp' => by cases hp'; exact htodo
  · exact hs.setProc _ nofun
  · exact hs.setProc _ nofun
  · rw [ht, List.all_cons, Bool.and_eq_true] at htodo
    obtain ⟨hc, hrest⟩ := htodo
    exact (hs.setProc s.report fun p' hp' => by cases hp'; exact hrest).accept (not_isDownload_of_exchanges hc)

theorem Move.cfg_eq {i : Instr} {s t : State} (m : Move i s t) : t.cfg = s.cfg := by
  cases m <;> simp

/-- Every atomic step keeps the invariant. -/
theorem Move.legal {i : Instr} {s t : State} (m : Move i s t) (hs : LegalState s) : LegalState t := by
  cases m
  case accept hi hp => exact hs.accept hi
  case start hi hp hproc => exact hs.downloadStart _ _ _ _
  case proceed p hi hp hproc => exact hs.downloadNext hproc
  case validate nxt hp ha hc hn hd => exact hs.goto hn (by simp [argsAndConnOk, ha, hc]) (fun h => absurd h hd)
  case flush nxt hp hn hd => exact hs.rxFlush.goto hn (hs.checked hp nofun) (fun h => absurd h hd)
  case sendExchange hi hp =>
    exact (hs.txSend _).startDecode.goto hi (hs.checked hp nofun) fun _ => rfl
  case sendOnly hi hp =>
    exact (hs.txSend _).goto (hasStep_finish_of_transmits hi) (hs.checked hp nofun) nofun
  case hold hp hq ht => exact hs
  case decodeMore b rest d hi hp hq hb =>
    exact (hs.takeHead hq).setDecoder (decoderByte_ok (hs.decoder hp) hb) (decoderByte_pbuf hb hs.pbuf) _
  case decodeSuccess b e rest ps hi hp hq hb =>
    have hps : ps.length ≤ 253 := decoderByte_success_params hb ▸ hs.pbuf
    exact (hs.takeHead hq).goto (by simp [hasStep, hi, hps]) (hs.checked hp nofun) nofun
  case decodeBad hi hp hq hb => exact (hs.takeHead hq).finish _
  case read b rest hi hp hq =>
    subst hi
    exact (hs.takeHead hq).goto rfl (hs.checked hp nofun) nofun
  case connect hi hp hc =>
    obtain ⟨port, baud, timeout, rfl⟩ := isOpen_iff.1 hi
    exact hs.rxFlush.goto rfl (hs.checked hp nofun) nofun
  case connectFails hi hp hc => exact ⟨rfl, hs.pbuf, fun _ => rfl, hs.todo⟩
  case opened hi hp => exact ⟨rfl, hs.pbuf, nofun, hs.todo⟩
  case finish hp => exact hs.finish _

end Sys2Proof.Machine

open Sys2Proof Sys2Proof.Machine Sys2Proof.Config

/-- Settles O57: a reset, the draws, every move and every refusal keep the invariant and the configuration. -/
theorem everyStepKeepsTheInvariant : Obligations.EveryStepKeepsTheInvariant := by
  intro s t hs h
  cases hr : s.rst with
  | true =>
    have ht : t = resetBlock (sample s) := by simpa [step, hr] using h.symm
    subst ht
    exact ⟨hs.sample.resetBlock, rfl⟩
  | false =>
    obtain ⟨q, ⟨i, m⟩ | rfl | rfl⟩ := step_cases hr h
    · exact ⟨m.legal (hs.sample.setHostQ q), m.cfg_eq⟩
    · exact ⟨hs.sample.setHostQ q, rfl⟩
    · exact ⟨(hs.sample.setHostQ q).finish _, rfl⟩
end

section
/-! PROOF. The encodings: where a packet's bytes stand, what an instruction sends, and that decoding undoes encoding (R45 to R58, R66,
R67). -/

namespace Sys2Proof

open Config

/-! ### The bytes of a packet -/

section packet_bytes

variable (id op : Byte) (ps : List Byte)

theorem packet_length : (packet id op ps).length = ps.length + 6 := by
  simp [packet]

/-- The parameters and the checksum follow the five bytes of R45's header. -/
theorem packet_getElem?_tail (k : Nat) : (packet id op ps)[5 + k]? = (ps ++ [checksumByte id op ps])[k]? := by
  rw [Nat.add_comm]
  rfl

/-- R80, from the checksum byte of R50. -/
theorem packet_sum {ps : List Byte} (h : ps.length ≤ 253) :
    (id.toNat + (ps.length + 2) + op.toNat + byteSum ps + (checksumByte id op ps).toNat) % 256 = 255 := by
  rw [← lengthByte_toNat h]
  exact checksumOk_iff.1 (checksumOk_packet h)

end packet_bytes

/-! ### Command records -/

/-- A record decodes to no command where its tag is none of the eight (R66). -/
theorem decodeRecord_unknownTag {tag : Byte} (a : Args)
    (h : tag ∉ ([0x01, 0x02, 0x03, 0x04, 0x10, 0x11, 0x12, 0x13] : List Byte)) : decodeRecord tag a = .unknownTag tag := by
  simp only [List.mem_cons, List.not_mem_nil, or_false, not_or] at h
  simp only [decodeRecord, h, if_false]

end Sys2Proof

namespace Sys2Proof.Machine

open Config

variable {c : Params} {i : Instr} {id op : Byte} {ps : List Byte}

/-- What `step` answers where no instruction is run, as `step_of_run` says it where one is. -/
theorem step_of_settle {s s' : State} (hr : s.rst = false) (h : nextAction (sample s) = .settle s') : step s = .next s' := by
  simp [step, hr, h]

/-! ### The packet an instruction stands for -/

/-- The send step puts the packet of the tables of R54 and R67 on the line. -/
theorem sent_of_packetOf (h : packetOf c i = some (id, op, ps)) : sent c i = packet id op ps := by
  cases i <;> cases h <;> rfl

/-- What is only sent and stands for no packet is the halt byte or a raw write (R47, R72). -/
theorem sent_of_packetOf_none (h : packetOf c i = none) (ht : transmits i = true) :
    sent c i = [0x48] ∨ ∃ bs, i = .writeRaw bs ∧ sent c i = bs := by
  cases i
  case haltByte => exact .inl rfl
  case halt => exact .inl rfl
  case writeRaw bs => exact .inr ⟨bs, rfl, rfl⟩
  case opSyncWrite => cases h
  case syncWrite => cases h
  all_goals cases ht

/-- An instruction packet is handed over as the bytes of the packet it stands for. -/
theorem encode_of_framed (c : Params) (hf : framed i = true) :
    ∃ id op ps, packetOf c i = some (id, op, ps) ∧ encode c i = .packet (packet id op ps) := by
  cases i <;> cases hf <;> exact ⟨_, _, _, rfl, rfl⟩

/-- A well-formed instruction packet has at most 253 parameters (R79). -/
theorem params_length_of_wellFormed (hf : framed i = true) (hw : i.wellFormed c = true)
    (hp : packetOf c i = some (id, op, ps)) : ps.length ≤ 253 := by
  cases i <;> cases hf <;> cases hp
  case opWriteData | opSyncWrite | opLoadPose | opLoadSeq =>
    simp [Instr.wellFormed, lengthOk] at hw ⊢
    omega
  all_goals simp

/-- Where the eight opcodes differ, a well-formed packet is read as its own row of R54's table: its opcode is not that of a row before
it. -/
theorem instrOfPacket_of_framed (hd : c.distinct) (hf : framed i = true) (hw : i.wellFormed c = true)
    (hp : packetOf c i = some (id, op, ps)) : instrOfPacket c id op ps = i := by
  have hearlier : c.opcodes.reverse.Nodup := List.nodup_reverse.2 hd
  simp only [Params.opcodes, List.reverse_cons, List.reverse_nil, List.nil_append, List.cons_append, List.nodup_cons,
    List.mem_cons, List.not_mem_nil, or_false, not_or] at hearlier
  cases i <;> cases hf <;> cases hp
  case opSyncWrite start len rows =>
    simp only [Instr.wellFormed, Bool.and_eq_true] at hw
    obtain ⟨hrows, -⟩ := hw
    simp [instrOfPacket, hearlier, joinedRowsOk, hrows]
  all_goals simp [instrOfPacket, hearlier]

/-! ### Decoding an encoding -/

/-- The bytes of a well-formed instruction packet are read by the packet's target, opcode and parameters. -/
theorem decode_encode_of_framed (hf : framed i = true) (hw : i.wellFormed c = true) :
    ∃ id op ps, packetOf c i = some (id, op, ps) ∧ decode c (encode c i) = .instr (instrOfPacket c id op ps) := by
  obtain ⟨id, op, ps, hp, he⟩ := encode_of_framed c hf
  refine ⟨id, op, ps, hp, ?_⟩
  rw [he]
  exact decodePacket_packet c id op (params_length_of_wellFormed hf hw hp)

/-- A record, a raw byte or a name gives its instruction back, whatever the opcodes and the operands. -/
theorem decode_encode_of_not_framed (c : Params) (hf : framed i = false) : decode c (encode c i) = .instr i := by
  cases i <;> cases hf <;> rfl

end Sys2Proof.Machine

open Sys2Proof Sys2Proof.Machine Sys2Proof.Config

/-- Settles O8: packet bytes are read by their target, opcode and parameters, which the first row with the opcode takes; every other
encoding names its instruction. -/
theorem decodeOfEncodeIsTheInstruction : Obligations.DecodeOfEncodeIsTheInstruction := by
  refine fun c i => ⟨fun hd hw => ?_, decode_encode_of_not_framed c, fun hf hw => ?_⟩
  · cases hf : framed i with
    | false => exact decode_encode_of_not_framed c hf
    | true =>
      obtain ⟨id, op, ps, hp, he⟩ := decode_encode_of_framed hf hw
      rw [he, instrOfPacket_of_framed hd hf hw hp]
  · obtain ⟨id, op, ps, hp, he⟩ := decode_encode_of_framed hf hw
    exact ⟨_, he, by rw [packetOf_instrOfPacket, hp]⟩

/-- Settles O9: the packet is five bytes of header, the parameters and the checksum byte of R50. -/
theorem packetLayoutAndChecksum : Obligations.PacketLayoutAndChecksum := by
  intro id op ps hps
  have hlen := lengthByte_toNat hps
  refine ⟨packet_length id op ps, rfl, rfl, rfl, ⟨lengthByte ps, rfl, hlen, by omega, by omega, ?_⟩, rfl, fun k hk => ?_,
    checksumByte id op ps, ?_, checksumByte_toNat hps, packet_sum id op hps⟩
  · rw [packet_length, hlen]
  · rw [packet_getElem?_tail, List.getElem?_append_left hk]
  · rw [packet_getElem?_tail, List.getElem?_concat_length]

/-- Settles O11: by the rows of R54 and R67. -/
theorem sentBytesAreTheInstructionsPacket : Obligations.SentBytesAreTheInstructionsPacket :=
  fun _ _ => ⟨fun _ _ _ => sent_of_packetOf, sent_of_packetOf_none⟩

/-- Settles O5: the decoder's tags, and what the step does with a request that decodes to no command. -/
theorem commandTagsAndUnknownTags : Obligations.CommandTagsAndUnknownTags := by
  refine ⟨fun c a => ⟨rfl, rfl, rfl, rfl, rfl, rfl, rfl, rfl⟩, fun s tag a rest htag hr hp hproc hq => ?_⟩
  have hdec : decode s.cfg (.record tag a) = .unknownTag tag := decodeRecord_unknownTag a htag
  exact step_of_settle (s' := refuseRequest { sample s with hostQ := rest }) hr
    (by simp [nextAction, fetchRequest, hp, hproc, hq, hdec])

/-- Settles O7: each request is decoded by evaluation. -/
theorem writtenOutWordsDecode : Obligations.WrittenOutWordsDecode :=
  ⟨rfl, rfl, rfl, rfl, rfl, rfl, rfl, rfl⟩
end

section
/-! PROOF. The records of the transition stream (R59, R116). -/

namespace Sys2Proof.Machine

open Config

theorem lo8_add_hi8 {v : Nat} (h : v ≤ 65535) : (lo8 v).toNat + 256 * (hi8 v).toNat = v := by
  rw [lo8, hi8, lowByte_toNat, lowByte_toNat]
  omega

/-- Record k of the stream stands at the bytes 3k to 3k + 2 (R116). -/
theorem stream_getElem? {names : List PoseName} {ts : List Transition} {t : Transition} {k j : Nat} (h : ts[k]? = some t)
    (hj : j < 3) : (stream names ts)[3 * k + j]? = (transitionRecord names t)[j]? := by
  induction ts generalizing k with
  | nil => simp at h
  | cons u us ih =>
    have hu : stream names (u :: us) = transitionRecord names u ++ stream names us := by
      simp [stream, transitionRecords]
    cases k with
    | zero =>
      obtain rfl : u = t := by simpa using h
      rw [hu, Nat.mul_zero, Nat.zero_add]
      exact List.getElem?_append_left hj
    | succ k =>
      rw [hu, show 3 * (k + 1) + j = (3 * k + j) + 3 by omega]
      exact ih (by simpa using h)

end Sys2Proof.Machine

open Sys2Proof Sys2Proof.Machine Sys2Proof.Config

/-- Settles O46: each record is found by its place, and the sentinel follows the records. -/
theorem transitionStreamLayout : Obligations.TransitionStreamLayout := by
  intro names ts hidx hts
  refine ⟨?_, ?_, fun k t hk => ?_⟩
  · rw [stream, List.length_append, transitionRecords_length]
    rfl
  · rw [stream, ← transitionRecords_length names ts, List.drop_left]
  · obtain ⟨hname, hdur⟩ := hts t (List.mem_of_getElem? hk)
    refine ⟨_, _, _, stream_getElem? hk (j := 0) (by decide), stream_getElem? hk (j := 1) (by decide),
      stream_getElem? hk (j := 2) (by decide), ?_, lo8_add_hi8 hdur⟩
    rw [lowByte_toNat, Nat.mod_eq_of_lt (hidx _ hname)]
end

section
/-! PROOF. Instructions that take the same steps and differ only in the name PHASE shows (R28, R67, R54; log 5, log 8). -/

namespace Sys2Proof.Machine

open Config

variable {a b i : Instr} {s : State}

theorem relabel_goto (st : CmdStep) : relabel a b (.next (goto a st s)) = .next (goto b st s) := by
  simp [relabel, goto]

/-- Commands with the same argument check are validated alike. -/
theorem relabel_validateStep {fail : Status → Result} {st nxt : CmdStep} (ha : argsOk s.cfg a = argsOk s.cfg b) :
    relabel a b (validateStep a fail nxt (goto a st s)) = validateStep b fail nxt (goto b st s) := by
  rw [validateStep, validateStep, goto_cfg, goto_cfg, goto_conn, goto_conn, ha]
  split_ifs with hbad hclosed
  · rfl
  · rfl
  · exact relabel_goto nxt

/-- The decoder does not read which command it works for. -/
theorem relabel_decodeStep :
    relabel a b (decodeStep a executeResult (goto a .decode s)) = decodeStep b executeResult (goto b .decode s) := by
  rcases hq : s.rxq with _ | ⟨x, rest⟩
  · cases ht : s.timerFires with
    | false =>
      rw [decodeStep, decodeStep, rxRead_hold (s := goto a .decode s) hq ht, rxRead_hold (s := goto b .decode s) hq ht]
      exact relabel_goto .decode
    | true =>
      rw [decodeStep, decodeStep, rxRead_timeout (s := goto a .decode s) hq ht, rxRead_timeout (s := goto b .decode s) hq ht]
      rfl
  · rw [decodeStep, decodeStep, rxRead_cons (s := goto a .decode s) hq, rxRead_cons (s := goto b .decode s) hq]
    simp only [goto_dec, goto_lastError]
    cases decoderByte s.dec x with
    | more d =>
      exact relabel_goto (s := { s with rxq := rest, dec := d, lastError := lastErrorAfter s.dec x s.lastError }) .decode
    | success e ps => exact relabel_goto (s := { s with rxq := rest }) (.finish (some e) ps)
    | checksumError => rfl
    | bottom r => rfl

/-- Exchanges with EXECUTE's result that check and send the same do the same, step by step. -/
theorem relabel_exchange (st : CmdStep) (ha : argsOk s.cfg a = argsOk s.cfg b) (hs : sent s.cfg a = sent s.cfg b) :
    relabel a b (exchange a executeResult (goto a st s)) = exchange b executeResult (goto b st s) := by
  rw [exchange, exchange, atStep_busy (goto_phase s a st), atStep_busy (goto_phase s b st)]
  cases st with
  | validate => exact relabel_validateStep ha
  | flush => exact relabel_goto (s := rxFlush s) .send
  | send =>
    rw [goto_cfg, goto_cfg, hs]
    exact relabel_goto (s := startDecode (txSend (sent s.cfg b) s)) .decode
  | decode => exact relabel_decodeStep
  | finish e ps => rfl
  | connect => rfl
  | read => rfl

/-- Commands that only send, and check and send the same, do the same, step by step. -/
theorem relabel_transmit (st : CmdStep) (ha : argsOk s.cfg a = argsOk s.cfg b) (hs : sent s.cfg a = sent s.cfg b) :
    relabel a b (transmit a (goto a st s)) = transmit b (goto b st s) := by
  rw [transmit, transmit, atStep_busy (goto_phase s a st), atStep_busy (goto_phase s b st)]
  cases st with
  | validate => exact relabel_validateStep ha
  | send =>
    rw [goto_cfg, goto_cfg, hs]
    exact relabel_goto (s := txSend (sent s.cfg b) s) (.finish none [])
  | finish e ps => rfl
  | connect => rfl
  | flush => rfl
  | read => rfl
  | decode => rfl

/-- Every exchange but GET_REGISTER and SET_REGISTER uses its outcome as EXECUTE does. -/
theorem exec_of_executeLike (h : executeLike i = true) (s : State) : exec i s = exchange i executeResult s := by
  cases i <;> cases h <;> rfl

end Sys2Proof.Machine

open Sys2Proof Sys2Proof.Machine Sys2Proof.Config

/-- Settles O40: the instruction and the EXECUTE have EXECUTE's steps and result, and check and send the same. -/
theorem packetsActAsTheExecuteThatSendsThem : Obligations.PacketsActAsTheExecuteThatSendsThem := by
  intro s i st id op ps hi hp ha
  rw [exec_of_executeLike hi, exec_of_executeLike (i := .execute id op ps) rfl]
  exact relabel_exchange st ha (sent_of_packetOf hp)

/-- Settles O39: a pseudo-command stands for its expansion's packet and its argument check is that packet's, and HALT sends what
WRITE_RAW [0x48] does. -/
theorem pseudoCommandsActAsTheirExpansions : Obligations.PseudoCommandsActAsTheirExpansions := by
  have hexec := packetsActAsTheExecuteThatSendsThem
  intro s st
  refine ⟨fun n => hexec s _ st _ _ _ rfl rfl rfl, fun k vals hfit => hexec s _ st _ _ _ rfl rfl ?_,
    fun bs => hexec s _ st _ _ _ rfl rfl rfl, hexec s _ st _ _ _ rfl rfl rfl, hexec s _ st _ _ _ rfl rfl rfl,
    relabel_transmit st rfl rfl⟩
  rw [argsOk, hfit, Bool.true_and]
  rfl
end

section
/-! PROOF. The read in progress (R69): it holds, is ended by the Timer or takes a byte; and runs in which a read waits on a silent line
(R25, R155). -/

namespace Sys2Proof.Machine

open Config

variable {i : Instr} {s t : State}

/-! ### One read -/

/-- The block is at the `RxRead` of `i`: an exchange in its decode (R82), or READ_BYTE in its read (R73). -/
def AtRead (i : Instr) (s : State) : Prop :=
  (exchanges i = true ∧ s.phase = .busy i .decode) ∨ (i = .readByte ∧ s.phase = .busy i .read)

theorem AtRead.reading (h : AtRead i s) : reading s = true := by
  rcases h with ⟨hi, hp⟩ | ⟨rfl, hp⟩ <;> rw [Machine.reading, hp]
  · exact hi
  · rfl

/-- The status of a command's outcome is the status it puts into RESULT (R18, R99, R101, R102). -/
@[simp] theorem executeResult_status (s : State) (st : Status) (e : Option Byte) (ps : List Byte) :
    (executeResult s st e ps).status = some st := by
  unfold executeResult
  split
  next h => rw [h]
  next => rfl

@[simp] theorem getResult_status (count : Byte) (s : State) (st : Status) (e : Option Byte) (ps : List Byte) :
    (getResult count s st e ps).status = some st := by
  unfold getResult
  split
  next h =>
    rw [h]
    split
    · cases ps <;> rfl
    · rfl
  next => rfl

@[simp] theorem resultOf_status (i : Instr) (s : State) (st : Status) (e : Option Byte) (ps : List Byte) :
    (resultOf i s st e ps).status = some st := by
  cases i
  case getRegister => exact getResult_status _ s st e ps
  case setRegister => rfl
  all_goals exact executeResult_status s st e ps

theorem AtRead.exec_hold (h : AtRead i s) (hq : s.rxq = []) (ht : s.timerFires = false) : exec i s = .next s := by
  rcases h with ⟨hi, hp⟩ | ⟨rfl, hp⟩
  · rw [exec_of_exchanges hi, exchange_decode hp, decodeStep, rxRead_hold hq ht]
  · rw [exec, readByte_read hp, readStep, rxRead_hold hq ht]

theorem AtRead.exec_timeout (h : AtRead i s) (hq : s.rxq = []) (ht : s.timerFires = true) :
    ∃ r : Result, r.status = some .readTimeout ∧ exec i s = .next (finish r s) := by
  rcases h with ⟨hi, hp⟩ | ⟨rfl, hp⟩
  · exact ⟨_, resultOf_status i s _ none [], by rw [exec_of_exchanges hi, exchange_decode hp, decodeStep, rxRead_timeout hq ht]⟩
  · exact ⟨_, rfl, by rw [exec, readByte_read hp, readStep, rxRead_timeout hq ht]⟩

/-- A waiting byte is taken, and whatever it leads to is no timeout (R25). -/
theorem AtRead.exec_takes_byte {b : Byte} {rest : List Byte} (h : AtRead i s) (hq : s.rxq = b :: rest) (he : exec i s = .next t) :
    t.rxq = rest ∧ (t.phase = .idle → t.result.status ≠ some .readTimeout) := by
  rcases h with ⟨hi, hp⟩ | ⟨rfl, hp⟩
  · rw [exec_of_exchanges hi, exchange_decode hp] at he
    rcases decodeStep_cases he with ⟨h0, -⟩ | ⟨h0, -⟩ | ⟨b', rest', hq', hb⟩
    · simp [hq] at h0
    · simp [hq] at h0
    · obtain ⟨rfl, rfl⟩ : b = b' ∧ rest = rest' := by simpa using hq.symm.trans hq'
      rcases hb with ⟨d, -, rfl⟩ | ⟨e, ps, -, rfl⟩ | ⟨-, rfl⟩
      · exact ⟨rfl, fun hidle => by simp [hp] at hidle⟩
      · exact ⟨rfl, nofun⟩
      · exact ⟨rfl, fun _ => by simp⟩
  · rw [exec, readByte_read hp, readStep, rxRead_cons hq] at he
    cases he
    exact ⟨rfl, nofun⟩

/-! ### One step of the machine while a read waits -/

theorem readsEmpty_of_silent (hread : reading s = true) (hr : s.rst = false) (hq : s.rxq = []) (hbus : (currentDraw s).bus = []) :
    readsEmpty s = true :=
  readsEmpty_iff.2 ⟨hr, hread, by simp [hq, hbus]⟩

/-- The step of a machine that is at an `RxRead` runs the command in progress on the sampled state. -/
theorem step_of_reading (hread : reading s = true) (hr : s.rst = false) : ∃ i, AtRead i (sample s) ∧ step s = exec i (sample s) := by
  obtain ⟨i, hi⟩ := reading_cases hread
  obtain ⟨st, hp⟩ : ∃ st, s.phase = .busy i st := by
    rcases hi with ⟨-, hp⟩ | ⟨-, hp⟩ <;> exact ⟨_, hp⟩
  exact ⟨i, hi, step_of_run hr (nextAction_busy hp)⟩

theorem step_of_readsEmpty_hold (h : readsEmpty s = true) (ht : (sample s).timerFires = false) : step s = .next (sample s) := by
  obtain ⟨hr, hread, hq⟩ := readsEmpty_iff.1 h
  obtain ⟨i, hi, hs⟩ := step_of_reading hread hr
  rw [hs, hi.exec_hold hq ht]

theorem step_of_readsEmpty_timeout (h : readsEmpty s = true) (ht : (sample s).timerFires = true) :
    ∃ r : Result, r.status = some .readTimeout ∧ step s = .next (finish r (sample s)) := by
  obtain ⟨hr, hread, hq⟩ := readsEmpty_iff.1 h
  obtain ⟨i, hi, hs⟩ := step_of_reading hread hr
  rw [hs]
  exact hi.exec_timeout hq ht

/-! ### A read that waits on a silent line -/

/-- From `s` to `t` a read has waited: RXQ is empty, and nothing the host observes has changed. -/
structure Rested (s t : State) : Prop where
  phase     : t.phase = s.phase
  result    : t.result = s.result
  txs       : t.txs = s.txs
  lastError : t.lastError = s.lastError
  rxq       : t.rxq = []

theorem Rested.refl (hq : s.rxq = []) : Rested s s := ⟨rfl, rfl, rfl, rfl, hq⟩

/-- A sampled state differs from the state before in nothing that `Rested` speaks of, but for the bytes that arrive. -/
theorem Rested.sample (h : Rested s t) (hq : (sample t).rxq = []) : Rested s (sample t) :=
  ⟨h.phase, h.result, h.txs, h.lastError, hq⟩

theorem Rested.reading (h : Rested s t) (hs : reading s = true) : reading t = true := by
  rwa [Machine.reading, h.phase]

theorem currentDraw_of_cons {d : Draw} {ds : List Draw} (hd : s.draws = d :: ds) : currentDraw s = d := by
  rw [currentDraw, hd]

theorem sample_of_quiet {ds : List Draw} (hd : s.draws = Draw.quiet :: ds) (hq : s.rxq = []) :
    (sample s).rst = false ∧ (sample s).rxq = [] ∧ (sample s).timerFires = false ∧ (sample s).draws = ds := by
  simp [currentDraw_of_cons hd, hd, hq, Draw.quiet]

/-- With `n` quiet draws to come, a read still waits after `n` steps. -/
theorem run_quiet_rested {n : Nat} {ds : List Draw} (hread : reading s = true) (hr : s.rst = false) (hq : s.rxq = [])
    (hd : s.draws = List.replicate n Draw.quiet ++ ds) :
    ∃ t : State, Host.Core.run core n s = .next t ∧ Rested s t ∧ t.rst = false ∧ t.draws = ds := by
  induction n generalizing ds with
  | zero => exact ⟨s, rfl, .refl hq, hr, hd⟩
  | succ n ih =>
    obtain ⟨t, hrun, hrest, htr, htd⟩ := ih (ds := Draw.quiet :: ds) (by rw [hd, List.replicate_succ']; simp)
    obtain ⟨hr', hq', htimer, hd'⟩ := sample_of_quiet htd hrest.rxq
    have hempty : readsEmpty t = true := readsEmpty_iff.2 ⟨htr, hrest.reading hread, hq'⟩
    exact ⟨_, run_snoc hrun (step_of_readsEmpty_hold hempty htimer), hrest.sample hq', hr', hd'⟩

/-! ### Runs -/

variable {r : Nat → State} {n k : Nat}

theorem IsRun.next_of_step (hrun : IsRun r) (hs : step (r n) = .next t) : r (n + 1) = t := by
  simpa using (hrun n).symm.trans hs

/-- R155: a fair run leaves every read of an empty RXQ, since the Timer's firing ends it. -/
theorem IsRun.leaves_readsEmpty (hrun : IsRun r) (hfair : TimerFair r) (n : Nat) : ∃ k, n ≤ k ∧ readsEmpty (r k) = false := by
  by_contra hforever
  have hempty : ∀ k, n ≤ k → readsEmpty (r k) = true := fun k hk => by
    by_contra hne
    exact hforever ⟨k, hk, by simpa using hne⟩
  obtain ⟨k, hk, ht⟩ := hfair n hempty
  obtain ⟨res, -, hstep⟩ := step_of_readsEmpty_timeout (hempty k hk) ht
  have hidle : reading (r (k + 1)) = false := by rw [hrun.next_of_step hstep, reading, finish_phase]
  obtain ⟨-, hread, -⟩ := readsEmpty_iff.1 (hempty (k + 1) (by omega))
  simp [hidle] at hread

section silent_read

variable (hread : reading (r n) = true) (hsilent : SilentFrom r n)

include hread hsilent

/-- On a silent line a read that has rested so far finds RXQ empty. -/
theorem readsEmpty_of_rested (hnk : n ≤ k) (hrest : ∀ j, n ≤ j → j ≤ k → Rested (r n) (r j)) : readsEmpty (r k) = true := by
  obtain ⟨hr, hbus⟩ := hsilent k hnk fun j hnj hjk => (hrest j hnj hjk).phase
  exact readsEmpty_of_silent ((hrest k hnk le_rfl).reading hread) hr (hrest k hnk le_rfl).rxq hbus

/-- On a silent line a read rests until the Timer first fires. -/
theorem IsRun.rested_before_firing (hrun : IsRun r) (hq : (r n).rxq = []) (hnk : n ≤ k)
    (hno : ∀ j, n ≤ j → j < k → (sample (r j)).timerFires = false) : ∀ j, n ≤ j → j ≤ k → Rested (r n) (r j) := by
  induction k, hnk using Nat.le_induction with
  | base =>
    intro j hnj hjn
    obtain rfl : j = n := by omega
    exact .refl hq
  | succ k hnk ih =>
    have hrest := ih fun j hnj hjk => hno j hnj (by omega)
    intro j hnj hjk
    obtain hjk | rfl : j ≤ k ∨ j = k + 1 := by omega
    · exact hrest j hnj hjk
    · have hempty := readsEmpty_of_rested hread hsilent hnk hrest
      obtain ⟨-, -, hq'⟩ := readsEmpty_iff.1 hempty
      rw [hrun.next_of_step (step_of_readsEmpty_hold hempty (hno k hnk (by omega)))]
      exact (hrest k hnk le_rfl).sample hq'

/-- In a fair run the Timer fires while a read on a silent line waits; up to its first firing the read rests. -/
theorem IsRun.exists_first_firing (hrun : IsRun r) (hfair : TimerFair r) (hq : (r n).rxq = []) :
    ∃ k, n ≤ k ∧ (∀ j, n ≤ j → j ≤ k → Rested (r n) (r j)) ∧ (sample (r k)).timerFires = true := by
  have hfires : ∃ k, n ≤ k ∧ (sample (r k)).timerFires = true := by
    by_contra hnever
    have hno : ∀ j, n ≤ j → (sample (r j)).timerFires = false := fun j hj => by
      by_contra hne
      exact hnever ⟨j, hj, by simpa using hne⟩
    exact hnever (hfair n fun k hk => readsEmpty_of_rested hread hsilent hk
      (hrun.rested_before_firing hread hsilent hq hk fun j hj _ => hno j hj))
  classical
  obtain ⟨hnk, hk⟩ := Nat.find_spec hfires
  refine ⟨Nat.find hfires, hnk, hrun.rested_before_firing hread hsilent hq hnk fun j hnj hjk => ?_, hk⟩
  have hmin := Nat.find_min hfires hjk
  simpa [hnj] using hmin

end silent_read

end Sys2Proof.Machine

open Sys2Proof Sys2Proof.Machine Sys2Proof.Config

/-- Settles O17: by what a read does with an empty queue and with a waiting byte. -/
theorem readsTakeAByteOrHold : Obligations.ReadsTakeAByteOrHold := fun _ _ (h : AtRead _ _) =>
  ⟨h.exec_hold, fun _ _ _ => h.exec_takes_byte⟩

/-- Settles O59: a read on a silent line rests until the Timer first fires, which fairness says it does, and that step ends it. -/
theorem silentReadEndsWhenTheTimerFires : Obligations.SilentReadEndsWhenTheTimerFires := by
  refine ⟨fun s i n ds (h : AtRead i s) hr hq hd => ?_,
    fun r hrun hfair => ⟨hrun.leaves_readsEmpty hfair, fun n hread hq hsilent => ?_⟩⟩
  · obtain ⟨t, hrun, hrest, htr, htd⟩ := run_quiet_rested h.reading hr hq hd
    refine ⟨⟨t, hrun, hrest.phase, hrest.result⟩, ?_⟩
    have hdraw := currentDraw_of_cons htd
    have hempty : readsEmpty t = true :=
      readsEmpty_of_silent (hrest.reading h.reading) htr hrest.rxq (by rw [hdraw]; rfl)
    obtain ⟨res, hres, hstep⟩ := step_of_readsEmpty_timeout hempty (by rw [sample_timerFires, hdraw])
    exact ⟨_, run_snoc hrun hstep, rfl, hres, hrest.txs, hrest.lastError, by simp [htd]⟩
  · obtain ⟨k, hnk, hrest, ht⟩ := hrun.exists_first_firing hread hsilent hfair hq
    obtain ⟨res, hres, hstep⟩ := step_of_readsEmpty_timeout (readsEmpty_of_rested hread hsilent hnk hrest) ht
    have hend := hrest k hnk le_rfl
    refine ⟨k, hnk, fun j hnj hjk => ⟨(hrest j hnj hjk).phase, (hrest j hnj hjk).result⟩, ?_⟩
    rw [hrun.next_of_step hstep]
    exact ⟨rfl, hres, hend.txs, hend.lastError⟩
end

section
/-! PROOF. The transport commands and the instructions that only send, step by step, to their completion, and their frames (R71 to R75,
R103, R113). -/

namespace Sys2Proof.Machine

open Config

variable {i : Instr} {s t : State}

/-! ### The validation step of every command, and READ_BYTE's read -/

/-- Every command but OPEN and the procedure runs the shared validation step, and puts into RESULT the status that refused it. -/
theorem exec_validate (hd : isDownload i = false) (ho : isOpen i = false) (hp : s.phase = .busy i .validate) :
    ∃ (fail : Status → Result) (nxt : CmdStep), (∀ st, (fail st).status = some st) ∧ exec i s = validateStep i fail nxt s := by
  rcases instr_groups i with hi | hi | ⟨port, baud, timeout, rfl⟩ | rfl | rfl | ⟨ts, poses, count, mode, rfl⟩
  · exact ⟨_, .flush, fun st => resultOf_status i s st none [], (exec_of_exchanges hi s).trans (exchange_validate hp)⟩
  · exact ⟨plainResult, .send, fun _ => rfl, (exec_of_transmits hi s).trans (transmit_validate hp)⟩
  · cases ho
  · exact ⟨plainResult, .read, fun _ => rfl, readByte_validate hp⟩
  · exact ⟨plainResult, .flush, fun _ => rfl, flushInput_validate hp⟩
  · cases hd

theorem readStep_cons {b : Byte} {rest : List Byte} (hq : s.rxq = b :: rest) :
    readStep s = .next (goto .readByte (.finish none [b]) { s with rxq := rest }) := by
  rw [readStep, rxRead_cons hq]

/-! ### Several steps of one command -/

theorem execTimes_of_next {n : Nat} (h : exec i s = .next t) : execTimes (n + 1) i s = execTimes n i t := by
  rw [execTimes, h]

/-- A command's acceptance and its three steps end in `t`, where the last leaves PHASE IDLE, as `t` has it. -/
theorem execTimes_four {s₁ s₂ s₃ : State} (ht : t.phase = .idle) (h₁ : exec i s = .next s₁) (h₂ : exec i s₁ = .next s₂)
    (h₃ : exec i s₂ = .next s₃) (h₄ : exec i s₃ = .next { t with phase := .idle }) : execTimes 4 i s = .next t := by
  rw [execTimes_of_next h₁, execTimes_of_next h₂, execTimes_of_next h₃, execTimes_of_next h₄, execTimes, ← ht]

/-! ### Frames -/

/-- Only the procedure writes what is not the block's. -/
theorem Move.sameOutside (m : Move i s t) (hd : isDownload i = false) : SameOutside s t := by
  cases m
  case start hi hp hs => rw [hi] at hd; cases hd
  case proceed hi hp hs => simp [hd] at hi
  all_goals exact ⟨rfl, rfl, rfl, rfl, rfl, rfl, rfl, rfl, rfl, rfl⟩

/-- Only an exchange runs the decoder (R15, R82). -/
theorem Move.dec_eq (m : Move i s t) (he : exchanges i = false) : t.dec = s.dec := by
  cases m
  case sendExchange hi hp => simp [he] at hi
  case decodeMore hi hp hq hb => simp [he] at hi
  all_goals simp

theorem Move.lastError_eq (m : Move i s t) (he : exchanges i = false) : t.lastError = s.lastError :=
  m.lastError_cases.resolve_right fun ⟨_, hi, _⟩ => by simp [he] at hi

theorem Move.txs_eq (m : Move i s t) (he : exchanges i = false) (ht : transmits i = false) : t.txs = s.txs := by
  cases m
  case sendExchange hi hp => simp [he] at hi
  case sendOnly hi hp => simp [ht] at hi
  all_goals simp

theorem Move.result_eq_or_idle (m : Move i s t) : t.result = s.result ∨ t.phase = .idle :=
  (em (t.phase = .idle)).symm.imp_left m.result_eq

theorem validateStep_rxq {fail : Status → Result} {nxt : CmdStep} (h : validateStep i fail nxt s = .next t) : t.rxq = s.rxq := by
  rcases validateStep_cases h with ⟨-, rfl⟩ | ⟨-, -, rfl⟩ | ⟨-, -, rfl⟩ <;> rfl

theorem transmit_rxq (h : transmit i s = .next t) : t.rxq = s.rxq := by
  rcases transmit_cases h with ⟨-, rfl⟩ | ⟨-, hv⟩ | ⟨-, rfl⟩ | ⟨e, ps, -, rfl⟩
  · rfl
  · exact validateStep_rxq hv
  · rfl
  · rfl

theorem openPort_rxq {port : Port} {baud timeout : Option Nat} (h : execOpenPort port baud timeout s = .next t) :
    t.rxq = s.rxq ∨ (s.phase = .busy (.openPort port baud timeout) .connect ∧ t.rxq = []) := by
  rcases openPort_cases h with ⟨-, rfl⟩ | ⟨-, -, rfl⟩ | ⟨-, -, rfl⟩ | ⟨hp, -, rfl⟩ | ⟨hp, -, rfl⟩ | ⟨e, ps, -, rfl⟩
  · exact .inl rfl
  · exact .inl rfl
  · exact .inl rfl
  · exact .inr ⟨hp, rfl⟩
  · exact .inr ⟨hp, rfl⟩
  · exact .inl rfl

theorem readByte_rxq (h : execReadByte s = .next t) :
    t.rxq = s.rxq ∨ (s.phase = .busy .readByte .read ∧ t.rxq = s.rxq.tail) := by
  rcases readByte_cases h with
    ⟨-, rfl⟩ | ⟨-, hv⟩ | ⟨-, -, -, rfl⟩ | ⟨-, -, -, rfl⟩ | ⟨b, rest, hp, hq, rfl⟩ | ⟨e, ps, -, rfl⟩
  · exact .inl rfl
  · exact .inl (validateStep_rxq hv)
  · exact .inl rfl
  · exact .inl rfl
  · exact .inr ⟨hp, by rw [hq]; rfl⟩
  · exact .inl rfl

theorem flushInput_rxq (h : execFlushInput s = .next t) :
    t.rxq = s.rxq ∨ (s.phase = .busy .flushInput .flush ∧ t.rxq = []) := by
  rcases flushInput_cases h with ⟨-, rfl⟩ | ⟨-, hv⟩ | ⟨hp, rfl⟩ | ⟨e, ps, -, rfl⟩
  · exact .inl rfl
  · exact .inl (validateStep_rxq hv)
  · exact .inr ⟨hp, rfl⟩
  · exact .inl rfl

theorem not_exchanges_and_not_isOpen_of_transmits (h : transmits i = true) : exchanges i = false ∧ isOpen i = false := by
  cases i <;> cases h <;> exact ⟨rfl, rfl⟩

end Sys2Proof.Machine

open Sys2Proof Sys2Proof.Machine Sys2Proof.Config

/-- Settles O29: OPEN's validation step and everyone else's. -/
theorem argumentsAreCheckedThenTheConnection : Obligations.ArgumentsAreCheckedThenTheConnection := by
  intro s i hd hp
  cases ho : isOpen i with
  | true =>
    obtain ⟨port, baud, timeout, rfl⟩ := isOpen_iff.1 ho
    exact ⟨fun ha => ⟨_, rfl, openPort_validate_bad hp ha⟩, nofun⟩
  | false =>
    obtain ⟨fail, nxt, hstatus, hexec⟩ := exec_validate hd ho hp
    exact ⟨fun ha => ⟨_, hstatus _, hexec.trans (validateStep_bad ha)⟩,
      fun ha _ hc => ⟨_, hstatus _, hexec.trans (validateStep_closed ha hc)⟩⟩

/-- Settles O37: the three steps of `transmit`, and the four from IDLE. -/
theorem transmittingInstructionsSendAndFinish : Obligations.TransmittingInstructionsSendAndFinish := by
  intro s i hi
  have hexec := exec_of_transmits hi
  refine ⟨fun hp ha ho => ?_, fun hp => ?_, fun hp => ?_, fun hp ha ho => ?_⟩
  · exact (hexec s).trans ((transmit_validate hp).trans (validateStep_good ha ho))
  · exact (hexec s).trans (transmit_send hp)
  · exact (hexec s).trans (transmit_finish hp)
  · exact execTimes_four hp ((hexec s).trans (transmit_idle hp))
      ((hexec _).trans ((transmit_validate rfl).trans (validateStep_good ha ho)))
      ((hexec _).trans (transmit_send rfl)) ((hexec _).trans (transmit_finish rfl))

/-- Settles O49: the frame of the moves, and RXQ over the steps of `transmit`. -/
theorem transmitFrame : Obligations.TransmitFrame := by
  intro s t i hi h
  have m := exec_move h
  obtain ⟨he, ho⟩ := not_exchanges_and_not_isOpen_of_transmits hi
  have hconn : t.conn = s.conn := m.conn_eq_or_isOpen.resolve_right fun ⟨hopen, _⟩ => by simp [ho] at hopen
  exact ⟨m.sameOutside (not_isDownload_of_transmits hi), hconn, m.dec_eq he, m.lastError_eq he,
    transmit_rxq (exec_of_transmits hi s ▸ h), m.txs_cases, m.result_eq_or_idle⟩

/-- Settles O50: the frame of the moves, and RXQ over the steps of each of the three commands. -/
theorem transportFrame : Obligations.TransportFrame := by
  intro s t i hi h
  have m := exec_move h
  have hconn := m.conn_eq_or_isOpen.imp_right And.left
  rcases hi with hopen | rfl | rfl
  · obtain ⟨port, baud, timeout, rfl⟩ := isOpen_iff.1 hopen
    exact ⟨m.sameOutside rfl, m.txs_eq rfl rfl, m.dec_eq rfl, m.lastError_eq rfl, hconn,
      (openPort_rxq h).imp_right fun hq => .inr (.inr hq), m.result_eq_or_idle⟩
  · exact ⟨m.sameOutside rfl, m.txs_eq rfl rfl, m.dec_eq rfl, m.lastError_eq rfl, hconn,
      (readByte_rxq h).imp_right .inl, m.result_eq_or_idle⟩
  · exact ⟨m.sameOutside rfl, m.txs_eq rfl rfl, m.dec_eq rfl, m.lastError_eq rfl, hconn,
      (flushInput_rxq h).imp_right fun hq => .inr (.inl hq), m.result_eq_or_idle⟩

/-- Settles O25: the steps of OPEN, and the four from IDLE. -/
theorem openValidatesConnectsAndFinishes : Obligations.OpenValidatesConnectsAndFinishes := by
  intro s port baud timeout
  refine ⟨fun hbad hp => ?_, fun hb ht hp => ?_, fun hp hc => ?_, fun hp hc => ?_, fun hp => ?_, fun hp hb ht hc => ?_⟩
  · have ha : openOk baud timeout = false := by
      rw [← Bool.not_eq_true, openOk_iff]
      tauto
    exact openPort_validate_bad hp ha
  · exact openPort_validate_good hp ((openOk_iff baud timeout).2 ⟨hb, ht⟩)
  · exact (openPort_connect hp).trans (if_neg (by simp [hc]))
  · exact (openPort_connect hp).trans (if_pos hc)
  · exact openPort_finish hp
  · have hexec (u : State) : exec (.openPort port baud timeout) u = execOpenPort port baud timeout u := rfl
    exact execTimes_four hp (atStep_idle hp)
      ((hexec _).trans (openPort_validate_good rfl ((openOk_iff baud timeout).2 ⟨hb, ht⟩)))
      ((hexec _).trans ((openPort_connect rfl).trans (if_pos hc)))
      ((hexec _).trans (openPort_finish (e := none) (ps := []) rfl))

/-- Settles O26: WRITE_RAW is one of the instructions that only send, and has no argument to check. -/
theorem writeRawSendsItsBytes : Obligations.WriteRawSendsItsBytes := by
  intro s bs
  obtain ⟨hvalidate, hsend, hfinish, -⟩ := transmittingInstructionsSendAndFinish s (.writeRaw bs) rfl
  exact ⟨fun hp hc => (transmit_validate hp).trans (validateStep_closed rfl hc), fun hp => hvalidate hp rfl, hsend, hfinish⟩

/-- Settles O27: the steps of READ_BYTE, and the four from IDLE. -/
theorem readByteReturnsTheOldestByte : Obligations.ReadByteReturnsTheOldestByte := by
  intro s
  refine ⟨fun hp hc => ?_, fun hp ho => ?_, fun b rest hp hq => ?_, fun hp hq ht => ?_, fun b hp => ?_,
    fun b rest hp ho hq => ?_⟩
  · exact (readByte_validate hp).trans (validateStep_closed rfl hc)
  · exact (readByte_validate hp).trans (validateStep_good rfl ho)
  · exact (readByte_read hp).trans (readStep_cons hq)
  · exact (readByte_read hp).trans (by rw [readStep, rxRead_timeout hq ht]; rfl)
  · exact readByte_finish hp
  · exact execTimes_four hp (atStep_idle hp) ((readByte_validate rfl).trans (validateStep_good rfl ho))
      ((readByte_read rfl).trans (readStep_cons hq)) (readByte_finish (e := none) (ps := [b]) rfl)

/-- Settles O28: the steps of FLUSH_INPUT, and the four from IDLE. -/
theorem flushInputEmptiesTheQueue : Obligations.FlushInputEmptiesTheQueue := by
  intro s
  refine ⟨fun hp hc => ?_, fun hp ho => ?_, flushInput_flush, flushInput_finish, fun hp ho => ?_⟩
  · exact (flushInput_validate hp).trans (validateStep_closed rfl hc)
  · exact (flushInput_validate hp).trans (validateStep_good rfl ho)
  · exact execTimes_four hp (atStep_idle hp) ((flushInput_validate rfl).trans (validateStep_good rfl ho))
      (flushInput_flush rfl) (flushInput_finish rfl)
end

section
/-! PROOF. The decoder byte by byte and over whole frames: the header search, a frame up to its checksum, and the checksum's test
(R83 to R89, R94 to R98). -/

namespace Sys2Proof

/-- The exact sum after one byte is replaced: the new byte stands for the old one. -/
theorem byteSum_set {ps : List Byte} {k : Nat} {v : Byte} (b : Byte) (h : ps[k]? = some v) :
    byteSum (ps.set k b) + v.toNat = byteSum ps + b.toNat := by
  induction ps generalizing k with
  | nil => simp at h
  | cons p ps ih =>
    cases k with
    | zero =>
      obtain rfl : p = v := by simpa using h
      simp only [List.set_cons_zero, byteSum]
      omega
    | succ k =>
      have := ih (by simpa using h)
      simp only [List.set_cons_succ, byteSum]
      omega

/-- A sum that passes R51's test fails it with one of its bytes replaced by another value. -/
theorem sum_mod_ne_of_replaced {m n : Nat} {x y : Byte} (hm : m % 256 = 255) (hyx : y ≠ x) (hn : n + x.toNat = m + y.toNat) :
    n % 256 ≠ 255 := by
  have hne : y.toNat ≠ x.toNat := fun h => hyx (BitVec.eq_of_toNat_eq h)
  have := x.isLt
  have := y.isLt
  omega

end Sys2Proof

namespace Sys2Proof.Machine

open Config

variable {d d' : Decoder} {b id l e ck : Byte} {ps bs : List Byte}

/-! ### One byte in each state of the decoder -/

theorem decoderByte_seekHeader1 (h : d.dstate = .seekHeader1) :
    decoderByte d b = .more { d with dstate := if b = 0xFF then .seekHeader2 else .seekHeader1 } := by
  rw [decoderByte, h]
  rfl

theorem decoderByte_seekHeader2 (h : d.dstate = .seekHeader2) :
    decoderByte d b = .more { d with dstate := if b = 0xFF then .readId else .seekHeader1 } := by
  rw [decoderByte, h]
  rfl

theorem decoderByte_readId (h : d.dstate = .readId) (hb : b ≠ 0xFF) :
    decoderByte d b = .more { d with rid := some b, dstate := .readLength } := by
  rw [decoderByte, h]
  exact if_pos hb

theorem decoderByte_readId_header (h : d.dstate = .readId) : decoderByte d 0xFF = .more { d with dstate := .seekHeader1 } := by
  rw [decoderByte, h]
  rfl

theorem decoderByte_readLength (h : d.dstate = .readLength) :
    decoderByte d b = .more { d with rlen := some b, dstate := .readError } := by
  rw [decoderByte, h]
  rfl

theorem decoderByte_readError (h : d.dstate = .readError) (hl : d.rlen = some l) :
    decoderByte d b = .more { d with
      rerr := some b, pbuf := [], dstate := if l.toNat = 2 then .readChecksum else .readParams } := by
  simp only [decoderByte, h, readError, hl]

theorem decoderByte_readParams (h : d.dstate = .readParams) (hl : d.rlen = some l) :
    decoderByte d b = .more { d with
      pbuf := pbufPush d.pbuf b
      dstate := if (pbufPush d.pbuf b).length + 2 = l.toNat then .readChecksum else .readParams } := by
  simp only [decoderByte, h, readParam, hl]

theorem decoderByte_readChecksum (h : d.dstate = .readChecksum) (hi : d.rid = some id) (hl : d.rlen = some l)
    (he : d.rerr = some e) :
    decoderByte d b = if checksumOk id l e d.pbuf b then .success e d.pbuf else .checksumError := by
  simp only [decoderByte, h, readChecksum, hi, hl, he]

/-- A byte that is no header byte leaves SEEK_HEADER1 as it is (R83). -/
theorem decoderByte_noise (h : d.dstate = .seekHeader1) (hb : b ≠ 0xFF) : decoderByte d b = .more d := by
  rw [decoderByte_seekHeader1 h, if_neg hb, ← h]

/-- With a length of 0 or 1, PBUF never holds RLEN − 2 bytes, so READ_PARAMS goes on (R88). -/
theorem decoderByte_short (hd : d.dstate = .readParams) (hl : d.rlen = some l) (hs : l.toNat < 2) :
    decoderByte d b = .more { d with pbuf := pbufPush d.pbuf b } := by
  rw [decoderByte_readParams hd hl, if_neg (by omega), ← hd]

/-- READ_PARAMS and READ_CHECKSUM are reached by the rules R87 and R88 only. -/
theorem decoderByte_more_cases (h : decoderByte d b = .more d') :
    (d'.dstate ≠ .readParams ∧ d'.dstate ≠ .readChecksum) ∨
    (∃ l : Byte, d.dstate = .readError ∧ d' = { d with
      rlen := some l, rerr := some b, pbuf := [], dstate := if l.toNat = 2 then .readChecksum else .readParams }) ∨
    ∃ l : Byte, d.dstate = .readParams ∧ d' = { d with
      rlen := some l, pbuf := pbufPush d.pbuf b
      dstate := if (pbufPush d.pbuf b).length + 2 = l.toNat then .readChecksum else .readParams } := by
  rcases d with ⟨st, rid, rlen, rerr, pb⟩
  cases st
  case seekHeader1 | seekHeader2 =>
    cases h
    left
    dsimp only
    split <;> exact ⟨nofun, nofun⟩
  case readId =>
    left
    simp only [decoderByte, readId] at h
    split at h <;> cases h <;> exact ⟨nofun, nofun⟩
  case readLength =>
    cases h
    exact .inl ⟨nofun, nofun⟩
  case readError =>
    cases rlen with
    | none => cases h
    | some l =>
      cases h
      exact .inr (.inl ⟨l, rfl, rfl⟩)
  case readParams =>
    cases rlen with
    | none => cases h
    | some l =>
      cases h
      exact .inr (.inr ⟨l, rfl, rfl⟩)
  case readChecksum =>
    cases rid <;> cases rlen <;> cases rerr <;> simp only [decoderByte, readChecksum, reduceCtorEq] at h
    split at h <;> cases h

/-- The rules that enter READ_CHECKSUM compare PBUF with RLEN (R98). -/
theorem decoderByte_enters_readChecksum (h : decoderByte d b = .more d') (hd' : d'.dstate = .readChecksum) :
    ∃ l : Byte, d'.rlen = some l ∧ d'.pbuf.length + 2 = l.toNat := by
  rcases decoderByte_more_cases h with ⟨-, hne⟩ | ⟨l, -, rfl⟩ | ⟨l, -, rfl⟩
  · exact absurd hd' hne
  · by_cases hl : l.toNat = 2
    · exact ⟨l, rfl, hl.symm⟩
    · simp [hl] at hd'
  · by_cases hl : (pbufPush d.pbuf b).length + 2 = l.toNat
    · exact ⟨l, rfl, hl⟩
    · simp [hl] at hd'

/-! ### Lists of bytes -/

theorem feed_of_more (bs : List Byte) (h : decoderByte d b = .more d') : feed d (b :: bs) = feed d' bs := by
  rw [feed, h]

/-- Bytes that are no header bytes are skipped in SEEK_HEADER1 (R94). -/
theorem feed_noise (hd : d.dstate = .seekHeader1) (hbs : ∀ b ∈ bs, b ≠ 0xFF) : feed d bs = .running d := by
  induction bs with
  | nil => rfl
  | cons b bs ih =>
    obtain ⟨hb, hbs⟩ := List.forall_mem_cons.1 hbs
    rw [feed_of_more bs (decoderByte_noise hd hb), ih hbs]

/-- One header byte and then another byte lead back to SEEK_HEADER1 (R84). -/
theorem feed_false_header (bs : List Byte) (hd : d.dstate = .seekHeader1) (hb : b ≠ 0xFF) : feed d (0xFF :: b :: bs) = feed d bs := by
  rw [feed_of_more _ (decoderByte_seekHeader1 hd), feed_of_more _ (decoderByte_seekHeader2 rfl), if_neg hb, ← hd]

/-- Two header bytes lead to READ_ID (R83, R84). -/
theorem feed_header (bs : List Byte) (hd : d.dstate = .seekHeader1) :
    feed d (0xFF :: 0xFF :: bs) = feed { d with dstate := .readId } bs := by
  rw [feed_of_more _ (decoderByte_seekHeader1 hd), feed_of_more _ (decoderByte_seekHeader2 rfl)]
  rfl

/-- A third header byte is no id and leads back to SEEK_HEADER1 (R85). -/
theorem feed_three_headers (bs : List Byte) (hd : d.dstate = .seekHeader1) : feed d (0xFF :: 0xFF :: 0xFF :: bs) = feed d bs := by
  rw [feed_header _ hd, feed_of_more _ (decoderByte_readId_header rfl), ← hd]

/-- Leading header bytes count modulo 3 (R95). -/
theorem feed_headers_mod_three (bs : List Byte) (hd : d.dstate = .seekHeader1) :
    ∀ n, feed d (List.replicate n 0xFF ++ bs) = feed d (List.replicate (n % 3) 0xFF ++ bs)
  | 0 => rfl
  | 1 => rfl
  | 2 => rfl
  | n + 3 => by
    rw [Nat.add_mod_right, ← feed_headers_mod_three bs hd n]
    exact feed_three_headers _ hd

/-! ### A frame -/

/-- The decoder at the checksum byte of a frame. -/
def atChecksum (d : Decoder) (id e : Byte) (ps : List Byte) : Decoder :=
  { d with dstate := .readChecksum, rid := some id, rlen := some (lengthByte ps), rerr := some e, pbuf := ps }

/-- The bytes of a frame before its checksum (R46). -/
def frameBody (id e : Byte) (ps : List Byte) : List Byte := 0xFF :: 0xFF :: id :: lengthByte ps :: e :: ps

theorem statusFrame_eq (id e : Byte) (ps : List Byte) (ck : Byte) : statusFrame id e ps ck = frameBody id e ps ++ [ck] := rfl

/-- The decoder receives a frame up to its checksum, whatever stood in its registers. -/
theorem feed_frameBody (e : Byte) (hd : d.dstate = .seekHeader1) (hid : id ≠ 0xFF) (hps : ps.length ≤ 253) :
    feed d (frameBody id e ps) = .running (atChecksum d id e ps) := by
  have hlen := lengthByte_toNat hps
  rw [frameBody, feed_header _ hd, feed_of_more _ (decoderByte_readId rfl hid), feed_of_more _ (decoderByte_readLength rfl),
    feed_of_more _ (decoderByte_readError rfl rfl)]
  by_cases h : ps = []
  · subst h
    rfl
  · have : (lengthByte ps).toNat ≠ 2 := by
      rw [hlen]
      simpa using h
    rw [if_neg this]
    exact feed_params rfl rfl h (by simp [hlen])

theorem decoderByte_atChecksum (d : Decoder) (id e ck : Byte) (hps : ps.length ≤ 253) :
    decoderByte (atChecksum d id e ps) ck = if frameSum id e ps ck % 256 = 255 then .success e ps else .checksumError := by
  simp only [decoderByte_readChecksum (d := atChecksum d id e ps) rfl rfl rfl rfl, checksumOk_iff, lengthByte_toNat hps]
  rfl

/-- A whole frame ends the decode by its sum, with the bytes after it not consumed (R89, R92). -/
theorem feed_statusFrame (e ck : Byte) (rest : List Byte) (hd : d.dstate = .seekHeader1) (hid : id ≠ 0xFF) (hps : ps.length ≤ 253) :
    feed d (statusFrame id e ps ck ++ rest) =
      if frameSum id e ps ck % 256 = 255 then .success e ps (atChecksum d id e ps) rest
      else .checksumError (atChecksum d id e ps) rest := by
  rw [statusFrame_eq, List.append_assoc, feed_append _ (feed_frameBody e hd hid hps), List.singleton_append]
  have hck := decoderByte_atChecksum d id e ck hps
  by_cases h : frameSum id e ps ck % 256 = 255
  · rw [if_pos h] at hck ⊢
    rw [feed, hck]
  · rw [if_neg h] at hck ⊢
    rw [feed, hck]

end Sys2Proof.Machine

open Sys2Proof Sys2Proof.Machine Sys2Proof.Config

/-- Settles O18: the noise is skipped, and the frame then passes its test. -/
theorem decoderResynchronisesAtTheHeader : Obligations.DecoderResynchronisesAtTheHeader := by
  intro d id e ck ps rest hd ⟨hid, hps, hsum⟩
  have hframe := (feed_statusFrame e ck rest hd hid hps).trans (if_pos hsum)
  refine ⟨fun noise hnoise => ?_, fun x hx => ⟨_, (feed_false_header _ hd hx).trans hframe⟩⟩
  rw [List.append_assoc, feed_append _ (feed_noise hd hnoise)]
  exact ⟨_, hframe⟩

/-- Settles O19: only n mod 3 header bytes count, and there are three cases of it. -/
theorem leadingHeaderBytesCountModuloThree : Obligations.LeadingHeaderBytesCountModuloThree := by
  intro d n id hd hid
  have hself : { d with dstate := .seekHeader1 } = d := by rw [← hd]
  have hn : feed d (List.replicate n 0xFF) = feed d (List.replicate (n % 3) 0xFF) := by
    simpa using feed_headers_mod_three [] hd n
  rw [hn, feed_headers_mod_three [id] hd n, hself]
  refine ⟨fun h => ?_, fun h => ?_, fun h => ?_, fun h => ?_, fun h => ?_⟩
  · rw [h]
    rfl
  · rw [h]
    exact feed_of_more [] (decoderByte_seekHeader1 hd)
  · rw [h]
    exact feed_header [] hd
  · rw [h]
    exact (feed_header [id] hd).trans (feed_of_more [] (decoderByte_readId rfl hid))
  · obtain h | h : n % 3 = 0 ∨ n % 3 = 1 := by omega
    · rw [h]
      exact feed_of_more [] (decoderByte_noise hd hid)
    · rw [h]
      exact feed_false_header [] hd hid

/-- Settles O21: each replacement moves the frame's sum by the difference of two bytes, which is not 0 modulo 256. -/
theorem corruptedFramesAreDetected : Obligations.CorruptedFramesAreDetected := by
  intro d id e ck ps rest hd ⟨hid, hps, hsum⟩
  refine ⟨fun ck' hck => ⟨_, (feed_statusFrame e ck' rest hd hid hps).trans (if_neg ?_)⟩,
    fun e' he => ⟨_, (feed_statusFrame e' ck rest hd hid hps).trans (if_neg ?_)⟩,
    fun k v b hv hb => ⟨_, (feed_statusFrame e ck rest hd hid (by simpa using hps)).trans (if_neg ?_)⟩⟩
  · refine sum_mod_ne_of_replaced hsum hck ?_
    simp only [frameSum]
    omega
  · refine sum_mod_ne_of_replaced hsum he ?_
    simp only [frameSum]
    omega
  · refine sum_mod_ne_of_replaced hsum hb ?_
    have := byteSum_set b hv
    simp only [frameSum, List.length_set]
    omega

/-- Settles O22: from the two rules that enter READ_CHECKSUM. -/
theorem checksumStateHoldsTheDeclaredLength : Obligations.ChecksumStateHoldsTheDeclaredLength := by
  intro d d' b h hd'
  obtain ⟨l, hl, hlen⟩ := decoderByte_enters_readChecksum h hd'
  exact ⟨l, hl, by omega, by omega⟩

/-- Settles O24, by induction on the bytes, over every PBUF. -/
theorem shortLengthsNeverComplete : Obligations.ShortLengthsNeverComplete := by
  intro d l bs hd hl hs
  induction bs generalizing d with
  | nil => exact ⟨d, rfl, hd, hl⟩
  | cons b bs ih =>
    rw [feed_of_more bs (decoderByte_short hd hl hs)]
    exact ih _ hd hl
end

section
/-! PROOF. The decode of an exchange: what its steps make of the decoder's events (R82 to R90), a whole frame received (R96), and the
packets that are refused before anything is sent (R79). -/

namespace Sys2Proof.Machine

open Config

variable {i : Instr} {s : State} {b id e ck : Byte} {ps bs rest : List Byte} {d d' : Decoder}

/-! ### One step of the decode -/

theorem exec_decode (hi : exchanges i = true) (hp : s.phase = .busy i .decode) : exec i s = decodeStep i (resultOf i) s :=
  (exec_of_exchanges hi s).trans (exchange_decode hp)

section byte_waiting

variable (hi : exchanges i = true) (hp : s.phase = .busy i .decode) (hq : s.rxq = b :: rest)
include hi hp hq

theorem exec_decode_more (hb : decoderByte s.dec b = .more d) :
    exec i s = .next { s with rxq := rest, dec := d, lastError := lastErrorAfter s.dec b s.lastError } := by
  rw [exec_decode hi hp, decodeStep, rxRead_cons hq]
  simp only [hb]

/-- Outside READ_ERROR the step leaves LAST_ERROR as it is (R19). -/
theorem exec_decode_more_of_ne_readError (hd : s.dec.dstate ≠ .readError) (hb : decoderByte s.dec b = .more d) :
    exec i s = .next { s with rxq := rest, dec := d } := by
  rw [exec_decode_more hi hp hq hb, lastErrorAfter, if_neg hd]

theorem exec_decode_success (hb : decoderByte s.dec b = .success e ps) :
    exec i s = .next { s with rxq := rest, phase := .busy i (.finish (some e) ps) } := by
  rw [exec_decode hi hp, decodeStep, rxRead_cons hq]
  simp only [hb]
  rfl

theorem exec_decode_checksumError (hb : decoderByte s.dec b = .checksumError) :
    exec i s = .next (finish (resultOf i { s with rxq := rest } .checksumError none []) { s with rxq := rest }) := by
  rw [exec_decode hi hp, decodeStep, rxRead_cons hq]
  simp only [hb]

end byte_waiting

/-- A command that fails returns no byte (R18, R99, R101, R102). -/
theorem resultOf_data_of_ne_ok {st : Status} (i : Instr) (s : State) (err : Option Byte) (params : List Byte) (h : st ≠ .ok) :
    (resultOf i s st err params).data = .bottom ∨ (resultOf i s st err params).data = .fail := by
  cases i
  case getRegister => exact .inr (congrArg Result.data (if_neg h))
  case setRegister => exact .inl rfl
  all_goals exact .inl (congrArg Result.data (if_neg h))

/-! ### Several steps of the decode -/

theorem execTimes_add {t : State} {n : Nat} (m : Nat) (h : execTimes n i s = .next t) :
    execTimes (n + m) i s = execTimes m i t := by
  induction n generalizing s with
  | zero =>
    cases h
    rw [Nat.zero_add]
  | succ n ih =>
    rw [Nat.add_right_comm]
    cases hs : exec i s with
    | next s' =>
      rw [execTimes_of_next hs] at h ⊢
      exact ih h
    | fault r => simp [execTimes, hs] at h
    | refused r => simp [execTimes, hs] at h

/-- From READ_PARAMS on, LAST_ERROR holds this decode's error byte (R87). -/
def ErrorLatched (d : Decoder) (last : Option Byte) : Prop :=
  d.dstate = .readParams ∨ d.dstate = .readChecksum → last = d.rerr

theorem ErrorLatched.after_more {last : Option Byte} (h : ErrorLatched d last) (hb : decoderByte d b = .more d') :
    ErrorLatched d' (lastErrorAfter d b last) := by
  rcases decoderByte_more_cases hb with ⟨hp, hc⟩ | ⟨l, hd, rfl⟩ | ⟨l, hd, rfl⟩
  · exact fun h' => absurd h' (not_or.2 ⟨hp, hc⟩)
  · exact fun _ => if_pos hd
  · exact fun _ => (if_neg (by simp [hd])).trans (h (.inl hd))

/-- As long as the bytes do not end the decode, the exchange takes them one a step. -/
theorem execTimes_of_feed_running (hi : exchanges i = true) (hp : s.phase = .busy i .decode) (hq : s.rxq = bs ++ rest)
    (hs : ErrorLatched s.dec s.lastError) (hf : feed s.dec bs = .running d) :
    ∃ last, ErrorLatched d last ∧
      execTimes bs.length i s = .next { s with rxq := rest, dec := d, lastError := last } := by
  induction bs generalizing s with
  | nil =>
    cases hf
    obtain rfl : s.rxq = rest := hq
    exact ⟨s.lastError, hs, rfl⟩
  | cons b bs ih =>
    cases hb : decoderByte s.dec b with
    | more d₁ =>
      rw [feed_of_more bs hb] at hf
      rw [List.length_cons, execTimes_of_next (exec_decode_more hi hp hq hb)]
      exact ih hp rfl (hs.after_more hb) hf
    | success _ _ => simp [feed, hb] at hf
    | checksumError => simp [feed, hb] at hf
    | bottom _ => simp [feed, hb] at hf

/-- An exchange that receives a valid frame is, one step a byte later, at its finish with the frame's error byte and parameters. -/
theorem execTimes_statusFrame (hi : exchanges i = true) (hp : s.phase = .busy i .decode) (hd : s.dec.dstate = .seekHeader1)
    (hv : ValidFrame id e ps ck) (hq : s.rxq = statusFrame id e ps ck ++ rest) :
    execTimes (ps.length + 6) i s = .next { s with
      rxq := rest, dec := atChecksum s.dec id e ps, lastError := some e, phase := .busy i (.finish (some e) ps) } := by
  obtain ⟨hid, hps, hsum⟩ := hv
  rw [statusFrame_eq, List.append_assoc] at hq
  obtain ⟨last, hlast, hbody⟩ :=
    execTimes_of_feed_running hi hp hq (by simp [ErrorLatched, hd]) (feed_frameBody e hd hid hps)
  obtain rfl : last = some e := hlast (.inr rfl)
  have hck : exec i { s with rxq := ck :: rest, dec := atChecksum s.dec id e ps, lastError := some e } = _ :=
    exec_decode_success hi hp rfl ((decoderByte_atChecksum s.dec id e ck hps).trans (if_pos hsum))
  exact (execTimes_add 1 hbody).trans (execTimes_of_next hck)

theorem validFrame_packet (op : Byte) (h : encodable id ps = true) : ValidFrame id op ps (checksumByte id op ps) := by
  obtain ⟨⟨-, hid⟩, hps⟩ := (encodable_iff id ps).1 h
  exact ⟨hid, hps, packet_sum id op hps⟩

/-! ### Packets that cannot be encoded -/

/-- Arguments that pass an instruction's check are those of an encodable packet (R79). -/
theorem encodable_of_argsOk {c : Params} {op : Byte} (h : packetOf c i = some (id, op, ps)) (ha : argsOk c i = true) :
    encodable id ps = true := by
  cases i <;> cases h
  case opSyncWrite | syncWrite | uploadPose =>
    obtain ⟨-, henc⟩ := Bool.and_eq_true_iff.1 ha
    exact henc
  all_goals exact ha

theorem not_isDownload_of_packetOf {c : Params} {op : Byte} (h : packetOf c i = some (id, op, ps)) : isDownload i = false := by
  cases i
  case download => cases h
  all_goals rfl

end Sys2Proof.Machine

open Sys2Proof Sys2Proof.Machine Sys2Proof.Config

/-- Settles O10: such a packet fails its instruction's argument check. -/
theorem nonEncodablePacketsAreRefused : Obligations.NonEncodablePacketsAreRefused := by
  refine ⟨fun id ps => by simp [encodable], fun s i id op ps hpkt henc hp => ?_⟩
  have ha : argsOk s.cfg i = false := by
    rw [← Bool.not_eq_true]
    exact fun ha => by simp [encodable_of_argsOk hpkt ha] at henc
  exact (argumentsAreCheckedThenTheConnection s i (not_isDownload_of_packetOf hpkt) hp).1 ha

/-- Settles O12: the decoder's byte in each of the four states. -/
theorem decoderFindsTheHeaderIdAndLength : Obligations.DecoderFindsTheHeaderIdAndLength := by
  intro s i b rest hi hp hq
  have step {d : Decoder} := exec_decode_more_of_ne_readError (d := d) hi hp hq
  refine ⟨fun h => ?_, fun h => ?_, fun h hb => ?_, fun h hb => ?_, fun h => ?_⟩
  · exact step (by simp [h]) (decoderByte_seekHeader1 h)
  · exact step (by simp [h]) (decoderByte_seekHeader2 h)
  · exact step (by simp [h]) (decoderByte_readId h hb)
  · subst hb
    exact step (by simp [h]) (decoderByte_readId_header h)
  · exact step (by simp [h]) (decoderByte_readLength h)

/-- Settles O13: READ_ERROR is where LAST_ERROR takes the byte. -/
theorem decoderLatchesTheErrorByte : Obligations.DecoderLatchesTheErrorByte := by
  intro s i b l rest hi hp hq hd hl
  rw [exec_decode_more hi hp hq (decoderByte_readError hd hl), lastErrorAfter, if_pos hd]

/-- Settles O14: the model's comparison over the naturals is the one over the integers. -/
theorem decoderCollectsTheParameters : Obligations.DecoderCollectsTheParameters := by
  intro s i b l rest hi hp hq hd hl
  have hcmp (n : Nat) : (n : Int) = (l.toNat : Int) - 2 ↔ n + 2 = l.toNat := by omega
  refine ⟨pbufPush s.dec.pbuf b, rfl, ?_⟩
  simp only [hcmp]
  exact exec_decode_more_of_ne_readError hi hp hq (by simp [hd]) (decoderByte_readParams hd hl)

/-- Settles O15: the two outcomes of R51's test. -/
theorem decoderTestsTheChecksum : Obligations.DecoderTestsTheChecksum := by
  intro s i b id l e rest hi hp hq hd hid hl he
  have hbyte := decoderByte_readChecksum (b := b) hd hid hl he
  exact ⟨fun h => exec_decode_success hi hp hq (hbyte.trans (if_pos (checksumOk_iff.2 h))),
    fun h => ⟨_, resultOf_status i _ _ _ _, resultOf_data_of_ne_ok i _ _ _ nofun,
      exec_decode_checksumError hi hp hq (hbyte.trans (if_neg (mt checksumOk_iff.1 h)))⟩⟩

/-- Settles O16: a timeout finishes the command with a failure's result. -/
theorem timeoutEndsTheDecode : Obligations.TimeoutEndsTheDecode := by
  intro s i hi hp hq ht
  refine ⟨resultOf i s .readTimeout none [], resultOf_status i s _ _ _, resultOf_data_of_ne_ok i s _ _ nofun, ?_⟩
  rw [exec_decode hi hp, decodeStep, rxRead_timeout hq ht]
  rfl

/-- Settles O20: an encoded packet is a valid frame with its opcode as the error byte. -/
theorem roundTripThroughTheDecoder : Obligations.RoundTripThroughTheDecoder := by
  intro s i id op ps hi hp hd henc hq
  obtain ⟨-, hps⟩ := (encodable_iff id ps).1 henc
  have hq' : s.rxq = statusFrame id op ps (checksumByte id op ps) ++ [] := by rw [List.append_nil, ← packet_eq_statusFrame, hq]
  exact ⟨_, execTimes_statusFrame hi hp hd (validFrame_packet op henc) hq', rfl, rfl, ⟨_, rfl, lengthByte_toNat hps⟩,
    rfl, rfl, rfl⟩
end

section
/-! PROOF. The exchanges step by step (R99): from acceptance to the decode, and what each way of ending puts into RESULT (R101, R102); their
completion on a valid answer; and their frame. -/

namespace Sys2Proof.Machine

open Config

variable {i : Instr} {s t : State}

/-! ### The steps of every exchange -/

section exchange_step

variable (hi : exchanges i = true)
include hi

theorem exec_exchange_invalid (hp : s.phase = .busy i .validate) (ha : argsOk s.cfg i = false) :
    exec i s = .next (finish (resultOf i s .invalidArgument none []) s) :=
  (exec_of_exchanges hi s).trans ((exchange_validate hp).trans (validateStep_bad ha))

theorem exec_exchange_closed (hp : s.phase = .busy i .validate) (ha : argsOk s.cfg i = true) (hc : s.conn.opened = false) :
    exec i s = .next (finish (resultOf i s .connectionError none []) s) :=
  (exec_of_exchanges hi s).trans ((exchange_validate hp).trans (validateStep_closed ha hc))

theorem exec_exchange_valid (hp : s.phase = .busy i .validate) (ha : argsOk s.cfg i = true) (ho : s.conn.opened = true) :
    exec i s = .next (goto i .flush s) :=
  (exec_of_exchanges hi s).trans ((exchange_validate hp).trans (validateStep_good ha ho))

theorem exec_exchange_flush (hp : s.phase = .busy i .flush) : exec i s = .next (goto i .send (rxFlush s)) :=
  (exec_of_exchanges hi s).trans (exchange_flush hp)

theorem exec_exchange_send (hp : s.phase = .busy i .send) :
    exec i s = .next (goto i .decode (startDecode (txSend (sent s.cfg i) s))) :=
  (exec_of_exchanges hi s).trans (exchange_send hp)

theorem exec_decode_timeout (hp : s.phase = .busy i .decode) (hq : s.rxq = []) (ht : s.timerFires = true) :
    exec i s = .next (finish (resultOf i s .readTimeout none []) s) := by
  rw [exec_decode hi hp, decodeStep, rxRead_timeout hq ht]

theorem exec_exchange_finish {err : Option Byte} {params : List Byte} (hp : s.phase = .busy i (.finish err params)) :
    exec i s = .next (finish (resultOf i s .ok err params) s) :=
  (exec_of_exchanges hi s).trans (exchange_finish hp)

/-- No exchange opens the connection. -/
theorem not_isOpen_of_exchanges : isOpen i = false := by
  cases i <;> cases hi <;> rfl

end exchange_step

theorem exchanges_of_executeLike (h : executeLike i = true) : exchanges i = true := by
  cases i <;> cases h <;> rfl

theorem resultOf_of_executeLike (h : executeLike i = true) : resultOf i = executeResult := by
  cases i <;> cases h <;> rfl

/-- GET_REGISTER returns the parameters as they came for every count but 1 (R101). -/
theorem getResult_ok_of_ne_one {count : Byte} (hc : count ≠ 1) (err : Option Byte) (params : List Byte) :
    getResult count s .ok err params = { status := some .ok, err := err, data := .bytes params } :=
  (if_pos rfl).trans (if_neg hc)

/-- R79, for arguments that are refused. -/
theorem encodable_eq_false_iff (id : Byte) (ps : List Byte) :
    encodable id ps = false ↔ id = 0 ∨ id = 255 ∨ 253 < ps.length := by
  rw [← Bool.not_eq_true, encodable_iff, ← Nat.not_le]
  tauto

/-! ### The frame of an exchange -/

/-- The decoder's registers change at the start of a decode and in it (R82). -/
theorem Move.dec_cases (m : Move i s t) :
    t.dec = s.dec ∨ (s.phase = .busy i .send ∧ t.dec = { s.dec with dstate := .seekHeader1 }) ∨ s.phase = .busy i .decode := by
  cases m
  case sendExchange hi hp => exact .inr (.inl ⟨hp, rfl⟩)
  case decodeMore hi hp hq hb => exact .inr (.inr hp)
  all_goals exact .inl (by simp)

/-- An exchange takes RXQ's head in its decode, and flushes all of RXQ before (R70, R82). -/
theorem Move.rxq_cases_of_exchanges (m : Move i s t) (he : exchanges i = true) :
    t.rxq = s.rxq ∨ (s.phase = .busy i .flush ∧ t.rxq = []) ∨ (s.phase = .busy i .decode ∧ t.rxq = s.rxq.tail) := by
  cases m
  case flush hp hn hd => exact .inr (.inl ⟨hp, rfl⟩)
  case decodeMore hi hp hq hb => exact .inr (.inr ⟨hp, by rw [hq]; rfl⟩)
  case decodeSuccess hi hp hq hb => exact .inr (.inr ⟨hp, by rw [hq]; rfl⟩)
  case decodeBad hi hp hq hb => exact .inr (.inr ⟨hp, by rw [hq]; rfl⟩)
  case read hi hp hq => subst hi; cases he
  case connect hi hp hc => simp [not_isOpen_of_exchanges he] at hi
  case connectFails hi hp hc => simp [not_isOpen_of_exchanges he] at hi
  all_goals exact .inl (by simp)

end Sys2Proof.Machine

open Sys2Proof Sys2Proof.Machine Sys2Proof.Config

/-- Settles O30: the steps of an exchange up to its decode, and the four from IDLE. -/
theorem exchangesFlushThenSendThenDecode : Obligations.ExchangesFlushThenSendThenDecode := by
  intro s i hi
  refine ⟨exec_exchange_valid hi, exec_exchange_flush hi, exec_exchange_send hi, fun hp ha ho => ?_⟩
  calc execTimes 4 i s
    _ = execTimes 3 i (accept i s) := execTimes_of_next ((exec_of_exchanges hi s).trans (exchange_idle hp))
    _ = execTimes 2 i (goto i .flush (accept i s)) := execTimes_of_next (exec_exchange_valid hi rfl ha ho)
    _ = execTimes 1 i (goto i .send (rxFlush (goto i .flush (accept i s)))) := execTimes_of_next (exec_exchange_flush hi rfl)
    _ = _ := execTimes_of_next (exec_exchange_send hi rfl)

/-- Settles O32: EXECUTE's result on each way an exchange ends. -/
theorem executeLikeInstructionsFinish : Obligations.ExecuteLikeInstructionsFinish := by
  intro s i h
  have hi := exchanges_of_executeLike h
  have hr := resultOf_of_executeLike h
  refine ⟨fun e ps hp => ?_, fun hp hq ht => ?_, fun b rest hp hq hb => ?_, fun hp ha hc => ?_, fun hp ha => ?_⟩
  · rw [exec_exchange_finish hi hp, hr]
    rfl
  · rw [exec_decode_timeout hi hp hq ht, hr]
    rfl
  · rw [exec_decode_checksumError hi hp hq hb, hr]
    rfl
  · rw [exec_exchange_closed hi hp ha hc, hr]
    rfl
  · rw [exec_exchange_invalid hi hp ha, hr]
    rfl

/-- Settles O31: EXECUTE is an exchange with EXECUTE's result, whose argument check is R79's. -/
theorem executeRunsItsSteps : Obligations.ExecuteRunsItsSteps := by
  intro s id op params
  obtain ⟨hvalid, hflush, hsend, -⟩ := exchangesFlushThenSendThenDecode s (.execute id op params) rfl
  obtain ⟨hfinish, htimeout, hchecksum, hclosed, hinvalid⟩ := executeLikeInstructionsFinish s (.execute id op params) rfl
  refine ⟨fun hp hbad => hinvalid hp ((encodable_eq_false_iff id params).2 hbad), fun hp h0 h255 hlen => ?_, hflush, hsend,
    fun b rest hp hq => ⟨fun e ps => exec_decode_success rfl hp hq, hchecksum b rest hp hq⟩, htimeout, hfinish⟩
  have ha : encodable id params = true := (encodable_iff id params).2 ⟨⟨h0, h255⟩, hlen⟩
  exact ⟨hclosed hp ha, hvalid hp ha⟩

/-- Settles O33: the steps of an exchange with READ_DATA's packet, and what `getResult` makes of each outcome. -/
theorem getRegisterReturnsTheValueOrFail : Obligations.GetRegisterReturnsTheValueOrFail := by
  intro s id start count
  have hi : exchanges (.getRegister id start count) = true := rfl
  obtain ⟨hvalid, hflush, hsend, -⟩ := exchangesFlushThenSendThenDecode s _ hi
  have good (h0 : id ≠ 0) (h255 : id ≠ 255) : argsOk s.cfg (.getRegister id start count) = true :=
    (encodable_iff id _).2 ⟨⟨h0, h255⟩, by simp [readParams]⟩
  refine ⟨fun hp h0 h255 => hvalid hp (good h0 h255), hflush, hsend, fun e v ps hc hp => ?_, fun e hc hp => ?_,
    fun e ps hc hp => ?_, exec_decode_timeout hi, fun b rest => exec_decode_checksumError hi,
    fun hp h0 h255 => exec_exchange_closed hi hp (good h0 h255), fun hp hbad => ?_⟩
  · subst hc
    exact exec_exchange_finish hi hp
  · subst hc
    exact exec_exchange_finish hi hp
  · rw [exec_exchange_finish hi hp, resultOf, getResult_ok_of_ne_one hc]
    rfl
  · exact exec_exchange_invalid hi hp ((encodable_eq_false_iff id _).2 (hbad.imp_right .inl))

/-- Settles O34: the steps of an exchange with WRITE_DATA's packet, and LAST_ERROR in the result of every outcome. -/
theorem setRegisterReportsTheLatchedError : Obligations.SetRegisterReportsTheLatchedError := by
  intro s id start vs
  have hi : exchanges (.setRegister id start vs) = true := rfl
  obtain ⟨hvalid, hflush, hsend, -⟩ := exchangesFlushThenSendThenDecode s _ hi
  have good (h0 : id ≠ 0) (h255 : id ≠ 255) (hlen : vs.length ≤ 252) : argsOk s.cfg (.setRegister id start vs) = true :=
    (encodable_iff id _).2 ⟨⟨h0, h255⟩, Nat.succ_le_succ hlen⟩
  refine ⟨fun hp h0 h255 hlen => hvalid hp (good h0 h255 hlen), hflush, hsend, fun e ps => exec_exchange_finish hi,
    exec_decode_timeout hi, fun b rest => exec_decode_checksumError hi,
    fun hp h0 h255 hlen => exec_exchange_closed hi hp (good h0 h255 hlen),
    fun hp hbad => exec_exchange_invalid hi hp ((encodable_eq_false_iff id _).2 ?_)⟩
  exact hbad.imp_right (Or.imp_right Nat.succ_lt_succ)

/-- Settles O38: the frame is received one step a byte, and the finish then gives the command's result. -/
theorem exchangesCompleteOnAValidAnswer : Obligations.ExchangesCompleteOnAValidAnswer := by
  intro s i id e ck ps rest hi hp hd hv hq
  have hrun := (execTimes_add 1 (execTimes_statusFrame hi hp hd hv hq)).trans
    (execTimes_of_next (exec_exchange_finish hi rfl))
  refine ⟨_, hrun, rfl, rfl, rfl, rfl, rfl, ⟨rfl, rfl, rfl, rfl, rfl, rfl, rfl, rfl, rfl, rfl⟩, fun h => ?_,
    fun j st cnt h => ?_, fun j st vs h => ?_⟩
  · rw [finish_result, resultOf_of_executeLike h]
    rfl
  · subst h
    by_cases hc : cnt = 1
    · subst hc
      cases ps <;> rfl
    · rw [finish_result, resultOf, getResult_ok_of_ne_one hc, if_neg hc]
  · subst h
    rfl

/-- Settles O48: the frame of the moves, with RXQ's and the decoder's as an exchange has them. -/
theorem exchangeFrame : Obligations.ExchangeFrame := by
  intro s t i hi h
  have m := exec_move h
  have hconn : t.conn = s.conn :=
    m.conn_eq_or_isOpen.resolve_right fun ⟨hopen, _⟩ => by simp [not_isOpen_of_exchanges hi] at hopen
  exact ⟨m.sameOutside (not_isDownload_of_exchanges hi), hconn, m.txs_cases, m.rxq_cases_of_exchanges hi,
    m.lastError_cases.imp_right fun ⟨b, _, hp, hd, hq, ht⟩ => ⟨hp, hd, ht.trans hq.symm⟩, m.dec_cases, m.result_eq_or_idle⟩
end

section
/-! PROOF. SYNC_WRITE (R103): its row check, its broadcast packet, and that packet's length and checksum (R104). -/

namespace Sys2Proof.Machine

open Config

/-- The exact sum of joined rows is the sum of their sums (R104). -/
theorem byteSum_flatten (rows : List (List Byte)) : byteSum rows.flatten = (rows.map byteSum).sum := by
  induction rows with
  | nil => rfl
  | cons r rows ih => rw [List.flatten_cons, byteSum_append, ih, List.map_cons, List.sum_cons]

/-- R103, for rows that are refused. -/
theorem syncOk_eq_false {start : Byte} {rows : List (List Byte)}
    (h : rows = [] ∨ (∃ r ∈ rows, r.length = 0) ∨ (∃ r ∈ rows, r.length ≠ (rows.headD []).length) ∨
      253 < 2 + rows.flatten.length) : syncOk start rows = false := by
  rw [← Bool.not_eq_true, syncOk_iff]
  rintro ⟨hne, hrows, hlen⟩
  rcases h with h | ⟨r, hr, h⟩ | ⟨r, hr, h⟩ | h
  · exact hne h
  · exact (hrows r hr).1 h
  · exact h (hrows r hr).2
  · exact Nat.not_le.2 h hlen

theorem syncParams_length (start : Byte) (rows : List (List Byte)) :
    (syncParams start rows).length = 2 + (rows.map List.length).sum := by
  rw [syncParams, List.length_cons, List.length_cons, List.length_flatten]
  omega

/-- Rows that fit a packet have at most 253 bytes each, so L fits its byte. -/
theorem syncLen_toNat {start : Byte} {rows : List (List Byte)} (h : syncOk start rows = true) :
    (syncLen rows).toNat = (rows.headD []).length - 1 := by
  obtain ⟨-, -, hlen⟩ := (syncOk_iff start rows).1 h
  have hhead : (rows.headD []).length ≤ rows.flatten.length := by
    cases rows with
    | nil => exact Nat.le_refl 0
    | cons r rows => simp
  rw [syncLen, lowByte_toNat]
  omega

end Sys2Proof.Machine

open Sys2Proof Sys2Proof.Machine Sys2Proof.Config

/-- Settles O35: the steps of an instruction that only sends, with R103's check and packet. -/
theorem syncWriteChecksItsRowsAndBroadcasts : Obligations.SyncWriteChecksItsRowsAndBroadcasts := by
  intro s start rows
  obtain ⟨hvalid, hsend, hfinish, -⟩ := transmittingInstructionsSendAndFinish s (.syncWrite start rows) rfl
  refine ⟨fun hp hbad => ?_, fun hp hne hrows hlen => ?_, hsend, hfinish⟩
  · exact (transmit_validate hp).trans (validateStep_bad (syncOk_eq_false hbad))
  · have ha : syncOk start rows = true := (syncOk_iff start rows).2 ⟨hne, hrows, hlen⟩
    exact ⟨fun hc => (transmit_validate hp).trans (validateStep_closed ha hc), hvalid hp ha⟩

/-- Settles O36: the length and checksum bytes of `packet`, over the sums of SYNC_WRITE's parameters. -/
theorem syncWriteLengthAndChecksum : Obligations.SyncWriteLengthAndChecksum := by
  intro c start rows h
  have hlen := syncParams_length start rows
  have hmax : (syncParams start rows).length ≤ 253 := by
    obtain ⟨-, -, hmax⟩ := (syncOk_iff start rows).1 h
    rwa [hlen, ← List.length_flatten]
  have hsum : byteSum (syncParams start rows) = start.toNat + ((rows.headD []).length - 1 + (rows.map byteSum).sum) := by
    rw [← syncLen_toNat h, ← byteSum_flatten]
    rfl
  refine ⟨lengthByte (syncParams start rows), checksumByte broadcastId c.opSyncWrite (syncParams start rows), rfl,
    List.getLast?_concat, ?_, ?_⟩
  · rw [lengthByte_toNat hmax, hlen]
    omega
  · rw [checksumByte_toNat hmax, lengthByte_toNat hmax, hsum]
    simp only [Nat.add_assoc]
    rfl
end

section
/-! PROOF. UPLOAD_POSE's values: the refusal of one that is too wide (R109), and the bytes the others are laid out in (R36, R37). -/

namespace Sys2Proof.Machine

open Config

/-- R109, for values that are refused. -/
theorem argsOk_uploadPose_of_tooWide {c : Params} {vals : List Nat} {v : Nat} (k : Byte) (hv : v ∈ vals)
    (hwide : poseLimit c.poseBytes < v) : argsOk c (.uploadPose k vals) = false := by
  have hfits : vals.all (poseFits c.poseBytes) = false := by
    rw [← Bool.not_eq_true, List.all_eq_true]
    exact fun hall => Nat.not_le.2 hwide ((poseFits_iff _ v).1 (hall v hv))
  rw [argsOk, hfits, Bool.false_and]

/-- With one byte a value, the bytes are the values (R37). -/
theorem poseBytes_one_map_toNat {vals : List Nat} (h : ∀ v ∈ vals, v ≤ 255) :
    (poseBytes .one vals).map BitVec.toNat = vals := by
  induction vals with
  | nil => rfl
  | cons v vs ih =>
    obtain ⟨hv, hvs⟩ := List.forall_mem_cons.1 h
    have hbyte : (lowByte v).toNat = v := by
      rw [lowByte_toNat]
      omega
    change (lowByte v).toNat :: (poseBytes .one vs).map BitVec.toNat = v :: vs
    rw [hbyte, ih hvs]

theorem poseBytes_two_length (vals : List Nat) : (poseBytes .two vals).length = 2 * vals.length := by
  induction vals with
  | nil => rfl
  | cons v vs ih =>
    change (poseBytes .two vs).length + 2 = 2 * (vs.length + 1)
    rw [ih, Nat.mul_succ]

/-- With two bytes a value, value n stands at the bytes 2n and 2n + 1 (R36, R37). -/
theorem poseBytes_two_getElem? {vals : List Nat} {n v j : Nat} (h : vals[n]? = some v) (hj : j < 2) :
    (poseBytes .two vals)[2 * n + j]? = [lo8 v, hi8 v][j]? := by
  induction vals generalizing n with
  | nil => simp at h
  | cons u us ih =>
    have hu : poseBytes .two (u :: us) = [lo8 u, hi8 u] ++ poseBytes .two us := rfl
    cases n with
    | zero =>
      obtain rfl : u = v := by simpa using h
      rw [hu, Nat.mul_zero, Nat.zero_add]
      exact List.getElem?_append_left hj
    | succ n =>
      rw [hu, show 2 * (n + 1) + j = (2 * n + j) + 2 by omega]
      exact ih (by simpa using h)

end Sys2Proof.Machine

open Sys2Proof Sys2Proof.Machine Sys2Proof.Config

/-- Settles O41: a value that is too wide fails UPLOAD_POSE's argument check, and `poseBytes` lays the others out in order. -/
theorem uploadPoseChecksAndLaysOutItsValues : Obligations.UploadPoseChecksAndLaysOutItsValues := by
  intro s k vals
  refine ⟨fun ⟨v, hv, hwide⟩ hp => ?_, fun hw hvals => ?_, fun hw hvals => ?_⟩
  · obtain ⟨-, -, -, -, hinvalid⟩ := executeLikeInstructionsFinish s (.uploadPose k vals) rfl
    have hlimit : poseLimit s.cfg.poseBytes < v := by
      rcases hwide with ⟨hw, hlt⟩ | ⟨hw, hlt⟩ <;> rw [hw] <;> exact hlt
    exact hinvalid hp (argsOk_uploadPose_of_tooWide k hv hlimit)
  · exact ⟨poseBytes .one vals, poseBytes_one_map_toNat hvals, by rw [sent, hw]; rfl⟩
  · refine ⟨poseBytes .two vals, poseBytes_two_length vals, by rw [sent, hw]; rfl, fun n v hn => ?_⟩
    exact ⟨lo8 v, hi8 v, poseBytes_two_getElem? hn (j := 0) (by decide), poseBytes_two_getElem? hn (j := 1) (by decide),
      lo8_add_hi8 (hvals v (List.mem_of_getElem? hn))⟩
end

section
/-! PROOF. What comes next while a DOWNLOAD runs: its own next step, or a halt between two of its commands (R113, R118, R123). -/

namespace Sys2Proof.Machine

variable {s : State} {p : Proc}

/-- A running DOWNLOAD goes on unless the host puts a halt between two of its commands (R118, R123). -/
theorem nextAction_download (hp : s.phase = .idle) (hproc : s.proc = some p)
    (h : p.waiting = true ∨ s.interject = false ∨ haltRequested s = false) :
    nextAction s = .run (.download p.transitions p.poses p.count p.mode) s := by
  have hno : (!p.waiting && s.interject && haltRequested s) = false := by
    rcases h with h | h | h <;> simp [h]
  simp [nextAction, hp, hproc, hno]

theorem fetchRequest_instr {r : Request} {rest : List Request} {i : Instr} (hq : s.hostQ = r :: rest)
    (hd : decode s.cfg r = .instr i) : fetchRequest s = .run i { s with hostQ := rest } := by
  simp [fetchRequest, hq, hd]

theorem haltRequested_instr {r : Request} {rest : List Request} {i : Instr} (hq : s.hostQ = r :: rest)
    (hd : decode s.cfg r = .instr i) : haltRequested s = isHalt i := by
  simp [haltRequested, hq, hd]

/-- Between two commands of a DOWNLOAD the host may have a halt run (R113). -/
theorem nextAction_halt {r : Request} {rest : List Request} {i : Instr} (hp : s.phase = .idle) (hproc : s.proc = some p)
    (hwait : p.waiting = false) (hinter : s.interject = true) (hq : s.hostQ = r :: rest) (hd : decode s.cfg r = .instr i)
    (hi : isHalt i = true) : nextAction s = .run i { s with hostQ := rest } := by
  have hyes : (!p.waiting && s.interject && haltRequested s) = true := by
    rw [haltRequested_instr hq hd, hwait, hinter, hi]
    rfl
  rw [← fetchRequest_instr hq hd]
  simp [nextAction, hp, hproc, hyes]

end Sys2Proof.Machine

open Sys2Proof Sys2Proof.Machine Sys2Proof.Config

/-- Settles O3: what `nextAction` answers after the draws, which leave PHASE, the procedure and the host's requests as they are. -/
theorem stepRunsTheDownloadOrAHaltBetweenItsCommands : Obligations.StepRunsTheDownloadOrAHaltBetweenItsCommands := by
  intro s p hr hp hproc
  refine ⟨fun h => ?_, fun r rest i hwait hinter hq hd hi => ?_⟩
  · exact step_of_run hr (nextAction_download (s := sample s) hp hproc h)
  · exact step_of_run hr (nextAction_halt (s := sample s) hp hproc hwait hinter hq hd hi)
end

section
/-! PROOF. The procedure DOWNLOAD: the assignment of indices (R115), the commands it runs (R118), and what its steps do and leave unchanged
(R117, R119). -/

namespace Sys2Proof.Machine

open Config

variable {s t : State} {ts : List Transition} {poses : List Pose} {count : Nat} {mode : PlayMode}

/-! ### The assignment -/

/-- R115's map after one transition more. -/
theorem assign_concat (ts : List Transition) (t : Transition) :
    assign (ts ++ [t]) = if t.name ∈ assign ts then assign ts else assign ts ++ [t.name] :=
  assignFrom_append [] ts [t]

theorem assign_nodup (ts : List Transition) : (assign ts).Nodup := by
  induction ts using List.reverseRecOn with
  | nil => exact List.nodup_nil
  | append_singleton ts t ih =>
    rw [assign_concat]
    split
    next => exact ih
    next hnew => simpa using ih.concat hnew

theorem mem_assign_iff {n : PoseName} (ts : List Transition) : n ∈ assign ts ↔ ∃ u ∈ ts, u.name = n := by
  induction ts using List.reverseRecOn with
  | nil => simp [assign, assignFrom]
  | append_singleton ts t ih =>
    have hconcat : n ∈ assign (ts ++ [t]) ↔ n ∈ assign ts ∨ t.name = n := by
      rw [assign_concat]
      split
      next hold => exact ⟨.inl, fun h => h.elim id (· ▸ hold)⟩
      next => simp [eq_comm]
    rw [hconcat, ih]
    simp [or_and_right, exists_or]

/-- A name that is not in the list gets the index after the last one. -/
theorem poseIndex_concat_of_notMem {names : List PoseName} {n : PoseName} (h : n ∉ names) :
    poseIndex (names ++ [n]) n = names.length := by
  rw [poseIndex, List.idxOf_append_of_notMem h, List.idxOf_cons_self, Nat.add_zero]

/-- R116's bound on the stream leaves at most 83 indices. -/
theorem assign_length_le (h : 3 * ts.length + 3 ≤ 253) : (assign ts).length ≤ 83 := by
  have hle : (assign ts).length ≤ 0 + ts.length := assignFrom_length_le [] ts
  omega

/-! ### The commands -/

theorem downloadPlan_length (ts : List Transition) (poses : List Pose) (count : Nat) (mode : PlayMode) :
    (downloadPlan ts poses count mode).length = (assign ts).length + 3 := by
  rw [downloadPlan, List.length_append, List.length_cons, uploads_length]
  rfl

/-- Command k + 1 uploads the pose of index k. -/
theorem downloadPlan_upload {k : Nat} {n : PoseName} (h : (assign ts)[k]? = some n) :
    (downloadPlan ts poses count mode)[k + 1]? = some (.uploadPose (lowByte k) ((lookupPose poses n).getD [])) := by
  obtain ⟨hk, -⟩ := List.getElem?_eq_some_iff.1 h
  have hupload := uploads_getElem? (poses := poses) (k := 0) h
  rw [Nat.zero_add] at hupload
  rw [downloadPlan, List.cons_append, List.getElem?_cons_succ, List.getElem?_append_left (by rwa [uploads_length]), hupload]

/-- The commands after the uploads. -/
theorem downloadPlan_afterUploads (j : Nat) : (downloadPlan ts poses count mode)[(assign ts).length + 1 + j]? =
    [.uploadSequence (stream (assign ts) ts), startCommand mode][j]? := by
  have hlen : (Instr.setPoseSize (lowByte count) :: uploads poses 0 (assign ts)).length = (assign ts).length + 1 := by
    rw [List.length_cons, uploads_length]
  rw [downloadPlan, ← hlen, List.getElem?_append_right (Nat.le_add_right _ _), Nat.add_sub_cancel_left]

/-! ### The steps -/

/-- With no DOWNLOAD running, the first step of one. -/
theorem exec_download_start (hp : s.phase = .idle) (hproc : s.proc = none) :
    exec (.download ts poses count mode) s = .next (downloadStart ts poses count mode s) := by
  change execDownload ts poses count mode s = _
  simp only [execDownload, hp, hproc]

/-- The running DOWNLOAD's next step. -/
theorem exec_download_proceed {p : Proc} (hp : s.phase = .idle) (hproc : s.proc = some p) :
    exec (.download p.transitions p.poses p.count p.mode) s = .next (downloadNext p s) := by
  change execDownload p.transitions p.poses p.count p.mode s = _
  simp only [execDownload, hp, hproc, and_self, if_true]

theorem downloadStart_valid (h : downloadOk s.cfg.poseBytes ts poses count mode = true) :
    downloadStart ts poses count mode s = { s with
      proc := some { transitions := ts, poses := poses, count := count, mode := mode,
                     todo := downloadPlan ts poses count mode, waiting := false }
      report := none } := if_pos h

theorem downloadStart_invalid (h : downloadOk s.cfg.poseBytes ts poses count mode ≠ true) :
    downloadStart ts poses count mode s =
      { finish (plainResult .invalidArgument) s with report := some .invalidArgument } := if_neg h

section later_steps

variable {p : Proc}

theorem downloadNext_ok (hw : p.waiting = true) (hr : s.result.status = some .ok) :
    downloadNext p s = { s with proc := some { p with waiting := false } } := by
  rw [downloadNext, if_pos hw, if_pos hr]

theorem downloadNext_failed (hw : p.waiting = true) (hr : s.result.status ≠ some .ok) :
    downloadNext p s = { s with proc := none, report := s.result.status } := by
  rw [downloadNext, if_pos hw, if_neg hr]

theorem downloadNext_done (hw : p.waiting = false) (htodo : p.todo = []) :
    downloadNext p s = { s with proc := none, report := some .ok } := by
  simp [downloadNext, hw, htodo]

theorem downloadNext_issue {c : Instr} {rest : List Instr} (hw : p.waiting = false) (htodo : p.todo = c :: rest) :
    downloadNext p s = accept c { s with proc := some { p with todo := rest, waiting := true } } := by
  simp [downloadNext, hw, htodo]

end later_steps

/-- All that a step of DOWNLOAD writes: RESULT where it refuses its inputs, PHASE where it issues a command, and the host's own fields. -/
theorem exec_download_writes {i : Instr} (hi : isDownload i = true) (h : exec i s = .next t) :
    ∃ result phase proc report, t = { s with result := result, phase := phase, proc := proc, report := report } ∧
      (result = s.result ∨ (s.proc = none ∧ report = some .invalidArgument)) ∧
      (phase = .idle ∨ ∃ c, phase = .busy c .validate) := by
  cases i <;> simp only [isDownload, reduceCtorEq] at hi
  case download ts poses count mode =>
    obtain ⟨hp, ⟨hproc, rfl⟩ | ⟨p, -, rfl⟩⟩ := download_cases h
    · by_cases hok : downloadOk s.cfg.poseBytes ts poses count mode = true
      · exact ⟨s.result, s.phase, _, none, downloadStart_valid hok, .inl rfl, .inl hp⟩
      · exact ⟨_, .idle, s.proc, _, downloadStart_invalid hok, .inr ⟨hproc, rfl⟩, .inl rfl⟩
    · rcases downloadNext_cases p s with ⟨-, h⟩ | ⟨-, h⟩ | ⟨-, h⟩ | ⟨c, rest, -, h⟩
      · exact ⟨s.result, s.phase, _, s.report, h, .inl rfl, .inl hp⟩
      · exact ⟨s.result, s.phase, none, _, h, .inl rfl, .inl hp⟩
      · exact ⟨s.result, s.phase, none, _, h, .inl rfl, .inl hp⟩
      · exact ⟨s.result, _, _, s.report, h, .inl rfl, .inr ⟨c, rfl⟩⟩

end Sys2Proof.Machine

open Sys2Proof Sys2Proof.Machine Sys2Proof.Config

/-- Settles O42: the check is R117's lines (`downloadOk_iff`), and DOWNLOAD starts or is refused by it. -/
theorem downloadChecksItsInputsFirst : Obligations.DownloadChecksItsInputsFirst := by
  intro s ts poses count mode hp hproc
  rw [← downloadOk_iff s.cfg.poseBytes, exec_download_start hp hproc]
  refine ⟨fun hok => ⟨?_, by rw [downloadStart_valid hok]⟩, fun hbad => ?_⟩
  · obtain ⟨-, -, -, -, -, hstream⟩ := (downloadOk_iff ..).1 hok
    exact assign_length_le hstream
  · rw [downloadStart_invalid hbad, finish, ← hp]
    rfl

/-- Settles O44: the plan's entries by their places. -/
theorem downloadPlanFollowsTheAssignment : Obligations.DownloadPlanFollowsTheAssignment := by
  intro ts poses count mode
  refine ⟨downloadPlan_length ts poses count mode, rfl, fun k n vs hk hvs => ?_, downloadPlan_afterUploads 0, ?_, ?_⟩
  · rw [downloadPlan_upload hk, hvs, Option.getD_some]
  · rintro rfl
    exact downloadPlan_afterUploads 1
  · rintro rfl
    exact downloadPlan_afterUploads 1

/-- Settles O45, by R115's map after one transition more. -/
theorem poseIndicesFollowFirstAppearance : Obligations.PoseIndicesFollowFirstAppearance := by
  refine ⟨rfl, fun ts t => ⟨fun hold => ?_, fun hnew => ?_, assign_nodup ts, fun n => mem_assign_iff ts⟩⟩
  · rw [assign_concat, if_pos hold]
  · have hconcat : assign (ts ++ [t]) = assign ts ++ [t.name] := by rw [assign_concat, if_neg hnew]
    exact ⟨hconcat, hconcat ▸ poseIndex_concat_of_notMem hnew⟩

/-- Settles O51: a step of DOWNLOAD is an update of RESULT, PHASE and the host's two fields. -/
theorem downloadFrame : Obligations.DownloadFrame := by
  intro s t i hi h
  obtain ⟨result, phase, proc, report, rfl, hresult, hphase⟩ := exec_download_writes hi h
  exact ⟨rfl, rfl, rfl, rfl, rfl, rfl, rfl, rfl, rfl, rfl, rfl, rfl, rfl, hresult, hphase⟩

/-- Settles O43: the four later steps of the running procedure. -/
theorem downloadRunsItsCommandsInOrder : Obligations.DownloadRunsItsCommandsInOrder := by
  intro s p hp hproc
  rw [exec_download_proceed hp hproc]
  refine ⟨fun hw hr => ?_, fun hw hr => ?_, fun hw htodo => ?_, fun c rest hw htodo => ?_⟩
  · rw [downloadNext_ok hw hr]
  · rw [downloadNext_failed hw hr]
  · rw [downloadNext_done hw htodo]
  · rw [downloadNext_issue hw htodo, accept]

/-- Settles O47: the plans of R121 and R122, computed. -/
theorem downloadExamplesOfTheSpec : Obligations.DownloadExamplesOfTheSpec :=
  ⟨by decide, fun _ _ => rfl⟩
end

section
/-! PROOF. From a legal state every step answers a next state: no fault (R16, R138) and no refusal (R23), and any step may draw a reset
(R140). -/

namespace Sys2Proof.Machine

variable {i : Instr} {st : CmdStep} {s t : State}

/-! ### A command in progress at a step that its rule lists -/

/-- A decode whose registers are legal reads no ⊥, so its step answers (R138). -/
theorem decodeStep_next (fin : State → Status → Option Byte → List Byte → Result) (hd : decoderOk s.dec = true) :
    ∃ t, decodeStep i fin s = .next t := by
  unfold decodeStep
  split
  next => exact ⟨_, rfl⟩
  next => exact ⟨_, rfl⟩
  next b s' _ =>
    cases hb : decoderByte s.dec b with
    | more d => exact ⟨_, rfl⟩
    | success e ps => exact ⟨_, rfl⟩
    | checksumError => exact ⟨_, rfl⟩
    | bottom r => exact absurd hb (decoderByte_ne_bottom hd r)

theorem readStep_next (s : State) : ∃ t, readStep s = .next t := by
  unfold readStep
  split <;> exact ⟨_, rfl⟩

theorem connectStep_next (i : Instr) (s : State) : ∃ t, connectStep i s = .next t := by
  unfold connectStep
  split <;> exact ⟨_, rfl⟩

theorem exchange_next (fin : State → Status → Option Byte → List Byte → Result) (hi : exchanges i = true)
    (hp : s.phase = .busy i st) (hst : hasStep i st = true) (hd : st = .decode → decoderOk s.dec = true) :
    ∃ t, exchange i fin s = .next t := by
  cases st with
  | validate => exact exchange_validate hp ▸ validateStep_next i _ _ s
  | flush => exact ⟨_, exchange_flush hp⟩
  | send => exact ⟨_, exchange_send hp⟩
  | decode => exact exchange_decode hp ▸ decodeStep_next _ (hd rfl)
  | finish e ps => exact ⟨_, exchange_finish hp⟩
  | connect => exact absurd hst (by simp [hasStep, not_isOpen_of_exchanges hi])
  | read =>
    obtain rfl : i = .readByte := by simpa [hasStep] using hst
    cases hi

theorem transmit_next (hi : transmits i = true) (hp : s.phase = .busy i st) (hst : hasStep i st = true) :
    ∃ t, transmit i s = .next t := by
  obtain ⟨he, ho⟩ := not_exchanges_and_not_isOpen_of_transmits hi
  cases st with
  | validate => exact transmit_validate hp ▸ validateStep_next i _ _ s
  | send => exact ⟨_, transmit_send hp⟩
  | finish e ps => exact ⟨_, transmit_finish hp⟩
  | connect => exact absurd hst (by simp [hasStep, ho])
  | flush =>
    obtain rfl : i = .flushInput := by simpa [hasStep, he] using hst
    cases hi
  | read =>
    obtain rfl : i = .readByte := by simpa [hasStep] using hst
    cases hi
  | decode => exact absurd hst (by simp [hasStep, he])

theorem openPort_next {port : Port} {baud timeout : Option Nat} (hp : s.phase = .busy (.openPort port baud timeout) st)
    (hst : hasStep (.openPort port baud timeout) st = true) : ∃ t, execOpenPort port baud timeout s = .next t := by
  cases st with
  | validate =>
    cases ha : openOk baud timeout with
    | false => exact ⟨_, openPort_validate_bad hp ha⟩
    | true => exact ⟨_, openPort_validate_good hp ha⟩
  | connect => exact openPort_connect hp ▸ connectStep_next _ s
  | finish e ps => exact ⟨_, openPort_finish hp⟩
  | flush | send | read | decode => cases hst

theorem readByte_next (hp : s.phase = .busy .readByte st) (hst : hasStep .readByte st = true) : ∃ t, execReadByte s = .next t := by
  cases st with
  | validate => exact readByte_validate hp ▸ validateStep_next _ _ _ s
  | read => exact readByte_read hp ▸ readStep_next s
  | finish e ps => exact ⟨_, readByte_finish hp⟩
  | connect | flush | send | decode => cases hst

theorem flushInput_next (hp : s.phase = .busy .flushInput st) (hst : hasStep .flushInput st = true) :
    ∃ t, execFlushInput s = .next t := by
  cases st with
  | validate => exact flushInput_validate hp ▸ validateStep_next _ _ _ s
  | flush => exact ⟨_, flushInput_flush hp⟩
  | finish e ps => exact ⟨_, flushInput_finish hp⟩
  | connect | send | read | decode => cases hst

/-- PHASE never holds the procedure: the host runs it (R118). -/
theorem not_isDownload_of_hasStep (h : hasStep i st = true) : isDownload i = false := by
  cases i
  case download => cases st <;> cases h
  all_goals rfl

/-! ### The instruction of the next step -/

/-- The command in progress of a legal state answers a next state. -/
theorem LegalState.exec_busy_next (hs : LegalState s) (hp : s.phase = .busy i st) : ∃ t, exec i s = .next t := by
  obtain ⟨hst, -, hd⟩ := (phaseOk_busy hp).1 hs.phase
  rcases instr_groups i with hi | hi | ⟨port, baud, timeout, rfl⟩ | rfl | rfl | ⟨ts, poses, count, mode, rfl⟩
  · exact exec_of_exchanges hi s ▸ exchange_next _ hi hp hst hd
  · exact exec_of_transmits hi s ▸ transmit_next hi hp hst
  · exact openPort_next hp hst
  · exact readByte_next hp hst
  · exact flushInput_next hp hst
  · cases not_isDownload_of_hasStep hst

/-- An IDLE block accepts every command (R22), and starts a DOWNLOAD where none runs (R117). -/
theorem exec_idle_next (hp : s.phase = .idle) (h : s.proc = none ∨ isDownload i = false) : ∃ t, exec i s = .next t := by
  cases hi : isDownload i with
  | false =>
    obtain ⟨body, hb⟩ := exec_eq_atStep hi
    exact ⟨_, (hb s).trans (atStep_idle hp)⟩
  | true =>
    have hproc : s.proc = none := h.resolve_right (by simp [hi])
    cases i <;> cases hi
    exact ⟨_, exec_download_start hp hproc⟩

theorem not_isDownload_of_isHalt (h : isHalt i = true) : isDownload i = false := by
  cases i
  case download => simp [isHalt] at h
  all_goals rfl

/-! ### One step of the machine -/

/-- The reset input is up: the block is reset (R139, R140). -/
theorem step_of_rst (hr : s.rst = true) : step s = .next (resetBlock (sample s)) := if_pos hr

/-- A legal state neither faults (R138) nor refuses (R23). -/
theorem LegalState.step_answers (hs : LegalState s) : ∃ t, step s = .next t := by
  cases hr : s.rst with
  | true => exact ⟨_, step_of_rst hr⟩
  | false =>
    rcases nextAction_cases (Machine.sample s) with
      ⟨i, st, hp, ha⟩ | ⟨p, hp, hproc, ha⟩ | ⟨r, rest, i, hp, -, -, hfree, ha⟩ | ⟨-, -, -, ha⟩ | ⟨r, rest, -, -, -, ha⟩
    · exact step_of_run hr ha ▸ hs.sample.exec_busy_next hp
    · exact ⟨_, (step_of_run hr ha).trans (exec_download_proceed hp hproc)⟩
    · exact step_of_run hr ha ▸ exec_idle_next hp (hfree.imp_right not_isDownload_of_isHalt)
    · exact ⟨_, step_of_settle hr ha⟩
    · exact ⟨_, step_of_settle hr ha⟩

/-! ### The reset input -/

@[simp] theorem downloadStart_rst (ts : List Transition) (poses : List Pose) (count : Nat) (mode : PlayMode) (s : State) :
    (downloadStart ts poses count mode s).rst = s.rst := by
  unfold downloadStart
  split <;> rfl

@[simp] theorem downloadNext_rst (p : Proc) (s : State) : (downloadNext p s).rst = s.rst := by
  rcases downloadNext_cases p s with ⟨-, h⟩ | ⟨-, h⟩ | ⟨-, h⟩ | ⟨c, rest, -, h⟩ <;> simp [h]

theorem Move.rst_eq (m : Move i s t) : t.rst = s.rst := by
  cases m <;> simp

/-- After a step the reset input is what that step drew: neither a reset nor an atomic step writes it (R140). -/
theorem rst_of_step (h : step s = .next t) : t.rst = (currentDraw s).reset := by
  cases hr : s.rst with
  | true =>
    obtain rfl : resetBlock (sample s) = t := by simpa [step_of_rst hr] using h
    rfl
  | false =>
    obtain ⟨q, ⟨i, m⟩ | rfl | rfl⟩ := step_cases hr h
    · exact m.rst_eq
    · rfl
    · rfl

end Sys2Proof.Machine

open Sys2Proof Sys2Proof.Machine Sys2Proof.Config

/-- Settles O58: a legal state's step answers, its reset input is the step's draw, and a step with that input up is a reset. -/
theorem legalStatesNeverStop : Obligations.LegalStatesNeverStop := by
  intro s hs
  obtain ⟨t, ht⟩ := hs.step_answers
  exact ⟨t, ht, rst_of_step ht, fun hr => ⟨_, step_of_rst hr, rfl, rfl⟩⟩

/-- Settles O60: the two code tables row by row, and their bounds case by case. -/
theorem statusAndDecoderCodes : Obligations.StatusAndDecoderCodes := by
  refine ⟨rfl, fun st => ?_, rfl, fun d => ?_⟩
  · cases st <;> decide
  · cases d <;> decide
end

section
/-! PROOF. The reset state: R139's table, and the base of the machine's invariant. -/

namespace Sys2Proof.Machine

open Config

/-- A reset block is IDLE, with an empty PBUF, nothing in RXQ and no DOWNLOAD running. -/
theorem LegalState.resetWith (c : Params) : LegalState (State.resetWith c) where
  phase := by simp [phaseOk]
  pbuf := Nat.zero_le _
  closed _ := resetWith_rxq c
  todo p hp := by simp at hp

end Sys2Proof.Machine

open Sys2Proof Sys2Proof.Machine Sys2Proof.Config

/-- Settles O1: the laws of the reset state row by row, at instantiation and after the step that resets the block. -/
theorem resetGivesTheSpecsValues : Obligations.ResetGivesTheSpecsValues := by
  refine ⟨fun c => ?instantiated, fun s hr => ⟨resetBlock (sample s), step_of_rst hr, ?reset⟩⟩
  case instantiated =>
    exact ⟨resetWith_conn c, resetWith_phase c, resetWith_dec c, resetWith_lastError c, resetWith_result c, resetWith_rxq c,
      resetWith_txs c, resetWith_cfg c⟩
  case reset =>
    exact ⟨resetBlock_conn _, resetBlock_phase _, resetBlock_dec _, resetBlock_lastError _, resetBlock_result _, resetBlock_rxq _,
      resetBlock_txs _, (resetBlock_cfg _).trans (sample_cfg s)⟩

/-- Settles O56: the reset state is legal, whatever the configuration. -/
theorem resetMeetsTheInvariant : Obligations.ResetMeetsTheInvariant := LegalState.resetWith
end
